-- ==== Sys2Proof/Word.lean ====
section
/-! DEFINITION. The bit vectors of HDST, with the widths of spec/00_scope.md R12 and R13. A buffer index is
a natural number (R12; log 26). -/

namespace Sys2Proof

/-- One byte: a cell of a buffer, one exchange on the wire (R13, R73). -/
abbrev Byte := BitVec 8

/-- 16 bits: the operand L of SUBMIT_WRITE, `rx_len`, `d_us`, `s_len` (R12, R110, R112). -/
abbrev Half := BitVec 16

/-- 17 bits: every byte count held in a register (R12). -/
abbrev Count := BitVec 17

end Sys2Proof
end

