-- ==== Sys2Proof/Syntax.lean ====
section
/-! DEFINITION. The names the spec gives the machine's parts, and `Instr`: one constructor per mnemonic of
spec/opcode_table.json. -/

namespace Sys2Proof

/-- The two buffers of HDST (00_scope.md R15, 20_memory.md R60). -/
inductive Space where
  | tx | rx
  deriving DecidableEq, Repr

/-- The four sites of the guard comparison (60_exceptions.md R223). -/
inductive Site where
  | ckWb | ckWe | ckRb | ckRe
  deriving DecidableEq, Repr

/-- The kind of an inbound frame (10_state.md R26). -/
inductive FrameKind where
  | data | event | other
  deriving DecidableEq, Repr

/-- The nine values of the TransportState register (10_state.md R21). The codes 9 to 15 are never written and
have no constructor (log 25). -/
inductive TransportState where
  | powerUp | initialized | idle
  | writeIrq | writeFirstPortion | writeEot
  | readIrq | readFirstPortion | readEot
  deriving DecidableEq, Repr

/-- The labels of the caller path W, the values of `wpc` (10_state.md R28). -/
inductive WLabel where
  | rest | init | acc | ckb | hdr | br
  | wu1 | wu2 | wu3 | wu4 | wu5 | wu6 | wu7
  | spin | cr1 | cr2 | cr3 | cr4
  | il1 | il2 | il3 | fin
  deriving DecidableEq, Repr

/-- The labels of the interrupt path I, the values of `ipc` (10_state.md R29). -/
inductive ILabel where
  | rest | take
  | rd1 | rd2 | rd3 | rd4 | rd5 | rd6 | rd7 | rd8 | rd9
  | wr1 | wr2 | wr3
  deriving DecidableEq, Repr

/-- The operations of HDST: one constructor per mnemonic of spec/opcode_table.json (30_encoding.md R106). The six
rows of ON_IRQ.OTHER are one constructor whose operand is the row's state code (log 25). -/
inductive Instr where
  -- host commands (R107)
  | nocmd
  | init
  | submitWrite (len : Half)
  | cmdReserved
  -- the interrupt event, dispatched on the code of `state` (R191)
  | onIrqPowerup
  | onIrqOther (code : BitVec 4)
  | onIrqIdle
  | onIrqWriteirq
  -- micro-operations (R113)
  | csAssert
  | csDeassert
  | xchg (b : Byte)
  | delayUs (n : Half)
  | irqEn
  | irqDis
  | irqLvl
  | deliver (ptr : Nat) (len : Half)
  | checkGuard (sp : Space) (site : Site)
  | buildHdr (len : Half)
  | decodeHdr
  | shuttleTx (base : Nat) (n : Count)
  /-- DESIGN CHOICE (log 36): `k0` has 17 bits, as `n` has; the spec gives it no width (40_bus_driver.md R127). -/
  | shuttleRx (base : Nat) (n k0 : Count)
  | uopNone
  -- frames on the wire (R91, R95)
  | wrframe (tag lengthHi lengthLo : Byte)
  | rdframeData (h : List Byte)
  | rdframeEvent (h : List Byte)
  | rdframeOther (h : List Byte)
  -- pseudo-actions of scripts (R115)
  | edge
  | frameIn (bytes : List Byte)
  | write (len : Half) (payload : List Byte)
  deriving DecidableEq, Repr

end Sys2Proof
end

