-- ==== Sys2Proof/Config.lean ====
section
/-! DEFINITION. The implementation parameters of spec/00_scope.md R11, and the values the spec leaves free. -/

namespace Sys2Proof

/-- The named parameters of R11. The ranges of the three offsets are their types; the other constraints are
`Config.wf`. `RD_TX` is plain data: its values in order from exchange 0, and the value of every later exchange
(log 29). DESIGN CHOICE (log 35): `T_WARM` has the 16 bits of the port `d_us`, though R11 does not bound it. -/
structure Config where
  wrTag         : Byte
  rdTx          : List Byte
  rdTxRest      : Byte
  typeOff       : Fin 10
  tagData       : Byte
  tagEvent      : Byte
  dataLenOff    : Fin 9
  evtLenOff     : Fin 10
  hdrConst      : Nat
  sentinel      : Byte
  txCap         : Nat
  rxCap         : Nat
  tWarm         : Half
  irqActiveHigh : Bool
  csActiveLow   : Bool
  syncStages    : Nat
  deriving DecidableEq, Repr

/-- The constraints of R11 that are not in the types. -/
def Config.wf (c : Config) : Bool :=
  decide (c.tagData ≠ c.tagEvent) && decide (6 ≤ c.txCap) && decide (10 ≤ c.rxCap) && decide (2 ≤ c.syncStages)

/-- The parameter set P0 of spec/95_test_vectors.md. DESIGN CHOICE (log 1): the spec leaves every one of these
numbers open; only `State.reset` rests on this set. -/
def Config.p0 : Config where
  wrTag := 0x01
  rdTx := [0x03]
  rdTxRest := 0x00
  typeOff := 5
  tagData := 0x02
  tagEvent := 0x04
  dataLenOff := 8
  evtLenOff := 8
  hdrConst := 10
  sentinel := 0xDE
  txCap := 32
  rxCap := 32
  tWarm := 50
  irqActiveHigh := true
  csActiveLow := true
  syncStages := 2

/-- FREE VALUE (log 3): the byte a buffer cell holds that nothing has written since the power-on or reset numbered
by the first argument (93_implementation_defined.md U1, U4: "any value"). -/
opaque Config.unwrittenByte : Nat → Space → Nat → Byte

/-- FREE VALUE (log 4): the byte the n-th load from memory outside the block returns (20_memory.md R68,
93_implementation_defined.md U5: "any value per byte"). -/
opaque Config.extByte : Nat → Byte

end Sys2Proof
end

