-- ==== Sys2Proof/Machine/Flags.lean ====
section
/-! DEFINITION. The flag computations: request-line polarity, synchroniser chain, edge detector, pending bit, guard
comparison, chip-select pin, readiness tests. -/

namespace Sys2Proof.Machine

/-- L(p): the logical level of the request pin (30_encoding.md R111, 41_irq_sync.md R141). -/
def activeLevel (c : Config) (pin : Bool) : Bool := if c.irqActiveHigh then pin else !pin

/-- The level on the chip-select pin (30_encoding.md R110). -/
def csPinLevel (c : Config) (cs : Bool) : Bool := if c.csActiveLow then !cs else cs

/-- The bit that enters `irq_s` at a clock edge: the last bit of the chain behind `irq_meta` (R141). -/
def syncOut (irqMeta : Bool) (chain : List Bool) : Bool := (irqMeta :: chain).getLast?.getD irqMeta

/-- The bits between `irq_meta` and `irq_s` after a clock edge: each takes the value of the bit before it (R141). -/
def syncShift (irqMeta : Bool) (chain : List Bool) : List Bool := (irqMeta :: chain).dropLast

/-- An active edge is seen when `irq_s = 1` and `irq_prev = 0` (R142). -/
def edgeSeen (irqS irqPrev : Bool) : Bool := irqS && !irqPrev

/-- The pending bit after a clock period (R144): set by an edge seen while enabled, else kept. -/
def pendNext (irqEn irqPend edge : Bool) : Bool := irqPend || (edge && irqEn)

/-- The guard comparison, on all 8 bits (60_exceptions.md R222). -/
def guardOk (c : Config) (b : Byte) : Bool := b == c.sentinel

/-- The labels of W at which the interrupt path may not start (42_transport_write.md R179). -/
def inhibited : WLabel → Bool
  | .cr2 | .cr3 | .cr4 | .il1 | .il2 | .il3 => true
  | _ => false

end Sys2Proof.Machine
end

