-- ==== Sys2Proof/Machine/Operands.lean ====
section
/-! DEFINITION. Operand forms: byte-order helpers, the codes of `state`, the frame codec of spec/30_encoding.md, and
the base-plus-cursor index of the shuttles. Pure functions of words and parameters. -/

namespace Sys2Proof.Machine

/-- Bits 15 to 8 of a 16-bit value (00_scope.md R13). -/
def hiByte (v : Half) : Byte := v.extractLsb' 8 8

/-- Bits 7 to 0 of a 16-bit value. -/
def loByte (v : Half) : Byte := v.extractLsb' 0 8

/-- The 4-bit code of a TransportState value (10_state.md R21). -/
def stateCode : TransportState → BitVec 4
  | .powerUp => 0
  | .initialized => 1
  | .idle => 2
  | .writeIrq => 3
  | .writeFirstPortion => 4
  | .writeEot => 5
  | .readIrq => 6
  | .readFirstPortion => 7
  | .readEot => 8

/-- `RD_TX(k)`: the byte sent with exchange k of a read transaction (R11, 40_bus_driver.md R127). -/
def rdTxAt (c : Config) (k : Nat) : Byte := c.rdTx.getD k c.rdTxRest

/-- The write pad rule (30_encoding.md R93): 1 if L is even, else 0. -/
def writePad (len : Half) : BitVec 1 := if len.toNat % 2 = 0 then 1 else 0

/-- The write length field L + pad (R94). -/
def lengthField (len : Half) : Half := len + (writePad len).zeroExtend 16

/-- The total of a write frame, 5 + L + pad (R92). -/
def writeTotal (len : Half) : Count := 5 + len.zeroExtend 17 + (writePad len).zeroExtend 17

/-- The five bytes of a write header whose length field is the two given bytes (R91). -/
def headerBytes (tag lengthHi lengthLo : Byte) : List Byte := [tag, lengthHi, lengthLo, 0x00, 0x00]

/-- The header that `BuildHdr(L)` returns (R91, R92). -/
def writeHeader (c : Config) (len : Half) : List Byte :=
  headerBytes c.wrTag (hiByte (lengthField len)) (loByte (lengthField len))

/-- Byte i of a header held as a list; the spec's headers have ten bytes, so the default is not reached. -/
def headerByte (h : List Byte) (i : Nat) : Byte := h.getD i 0

/-- Tag dispatch, on all 8 bits (R96). -/
def headerKind (c : Config) (h : List Byte) : FrameKind :=
  if headerByte h c.typeOff.val = c.tagData then .data
  else if headerByte h c.typeOff.val = c.tagEvent then .event
  else .other

/-- `dataLen(h)`, little-endian (R97). -/
def dataLen (c : Config) (h : List Byte) : Half :=
  headerByte h (c.dataLenOff.val + 1) ++ headerByte h c.dataLenOff.val

/-- `evtLen(h)`, the raw byte minus one; none for the raw byte 0, which the spec leaves unspecified (R101, U3). -/
def evtLen (c : Config) (h : List Byte) : Option Half :=
  if headerByte h c.evtLenOff.val = 0 then none
  else some ((headerByte h c.evtLenOff.val - 1).zeroExtend 16)

/-- The read count n = len + rpad(len) (R102). -/
def readCount (c : Config) (len : Half) : Count :=
  len.zeroExtend 17 + (if (c.hdrConst + len.toNat) % 2 = 0 then 1 else 0)

/-- `Decode(h)` (R99): kind, payload length without pad, bytes still to read; none where R101 leaves it
unspecified. -/
def decodeHeader (c : Config) (h : List Byte) : Option (FrameKind × Half × Count) :=
  match headerKind c h with
  | .data => some (.data, dataLen c h, readCount c (dataLen c h))
  | .event => (evtLen c h).map fun len => (.event, len, readCount c len)
  | .other => some (.other, 0, 0)

/-- The position k = n - rem of a shuttle in progress (40_bus_driver.md R126 to R128). -/
def cursor (n rem : Count) : Nat := n.toNat - rem.toNat

/-- The length of the whole frame a write header announces: header and length field (R90, R94). -/
def frameTotal (lengthHi lengthLo : Byte) : Count :=
  5 + (lengthHi ++ lengthLo : BitVec (8 + 8)).zeroExtend 17

end Sys2Proof.Machine
end

