-- ==== Sys2Proof/WellFormed.lean ====
section
/-! DEFINITION. Which instructions are well formed: what the operand's type does not already say. -/

namespace Sys2Proof

/-- Well-formedness of an operation under the parameters:
ON_IRQ.OTHER stands for the state codes with no arm of their own (43_transport_read.md R191);
a write header starts with WR_TAG and its length field L + pad is odd (30_encoding.md R91, R94);
a read header has ten bytes and the tag of its kind (R95, R96);
the byte lists of the pseudo-actions are short enough for the length field of their encoding (log 31). -/
def Instr.wf (c : Config) : Instr → Bool
  | .onIrqOther code => code != 0 && code != 2 && code != 3
  | .wrframe tag _ lengthLo => tag == c.wrTag && lengthLo.toNat % 2 == 1
  | .rdframeData h => h.length == 10 && Machine.headerKind c h == .data
  | .rdframeEvent h => h.length == 10 && Machine.headerKind c h == .event
  | .rdframeOther h => h.length == 10 && Machine.headerKind c h == .other
  | .frameIn bytes => decide (bytes.length < 2 ^ 24)
  | .write _ payload => decide (payload.length < 2 ^ 24)
  | .nocmd | .init | .submitWrite _ | .cmdReserved => true
  | .onIrqPowerup | .onIrqIdle | .onIrqWriteirq => true
  | .csAssert | .csDeassert | .xchg _ | .delayUs _ | .irqEn | .irqDis | .irqLvl => true
  | .deliver _ _ | .checkGuard _ _ | .buildHdr _ | .decodeHdr => true
  | .shuttleTx _ _ | .shuttleRx _ _ _ | .uopNone | .edge => true

end Sys2Proof
end

