-- ==== Sys2Proof/Decode.lean ====
section
/-! DEFINITION. Decoding and encoding. The spec has three code spaces (30_encoding.md R106, R107, R113, and R21 for
the interrupt dispatch), two wire headers (R91, R95) and the script's pseudo-actions (R115), and no word that holds
an operation with its operands. The code of an operation is the table's; its container is this model's (DESIGN
CHOICE, log 15): one byte with the code space in bits 7 to 4 and the table's code in bits 3 to 0, then the operands
in the order the rule lists them, each little-endian in whole bytes, a buffer index in as many as it needs; a wire
header stands as its own bytes. -/

namespace Sys2Proof

/-- Why bytes are no operation. -/
inductive DecodeError where
  /-- no byte at all -/
  | empty
  /-- the operands end early -/
  | truncated
  /-- a bit that the container or the wire header (R91, bytes 3 and 4) keeps zero is one -/
  | reservedBits
  /-- micro-operation codes 14 and 15 (R113) -/
  | unusedUop
  /-- a command code above two bits, a frame or pseudo-action code above those defined, an unused code space -/
  | unusedCode
  /-- an operation that `Instr.wf` refuses -/
  | illFormed
  deriving DecidableEq, Repr

/-- A command code on `cmd[1:0]` with the operand on `wr_len` (R107). -/
def decodeCmd (code : BitVec 2) (len : Half) : Instr :=
  match code.toNat with
  | 0 => .nocmd
  | 1 => .init
  | 2 => .submitWrite len
  | _ => .cmdReserved

/-- The arm of the interrupt event for a code of `state` (43_transport_read.md R191). -/
def decodeIrq (code : BitVec 4) : Instr :=
  match code.toNat with
  | 0 => .onIrqPowerup
  | 2 => .onIrqIdle
  | 3 => .onIrqWriteirq
  | _ => .onIrqOther code

/-- One operand byte. -/
def take8 : List Byte → Except DecodeError (Byte × List Byte)
  | b :: rest => .ok (b, rest)
  | _ => .error .truncated

/-- A 16-bit operand in two bytes. -/
def take16 : List Byte → Except DecodeError (Half × List Byte)
  | lo :: hi :: rest => .ok (hi ++ lo, rest)
  | _ => .error .truncated

/-- A 17-bit operand in three bytes; bits 23 to 17 are zero. -/
def take17 : List Byte → Except DecodeError (Count × List Byte)
  | lo :: mid :: top :: rest =>
    if top.toNat < 2 then .ok ((top ++ (mid ++ lo) : BitVec (8 + (8 + 8))).setWidth 17, rest)
    else .error .reservedBits
  | _ => .error .truncated

/-- A buffer index: seven bits in each byte, the least significant first, bit 7 set in every byte but the last; the
last of several bytes is not zero. -/
def takeIndex : List Byte → Except DecodeError (Nat × List Byte)
  | [] => .error .truncated
  | b :: rest =>
    if b.toNat < 128 then .ok (b.toNat, rest)
    else
      match takeIndex rest with
      | .error e => .error e
      | .ok (0, _) => .error .reservedBits
      | .ok (n + 1, rest) => .ok (b.toNat - 128 + 128 * (n + 1), rest)

/-- A byte count in three bytes. -/
def take24 : List Byte → Except DecodeError (Nat × List Byte)
  | lo :: mid :: top :: rest => .ok (lo.toNat + 256 * mid.toNat + 65536 * top.toNat, rest)
  | _ => .error .truncated

/-- The next n bytes as they stand. -/
def takeBytes : Nat → List Byte → Except DecodeError (List Byte × List Byte)
  | 0, bs => .ok ([], bs)
  | n + 1, b :: bs =>
    match takeBytes n bs with
    | .ok (taken, rest) => .ok (b :: taken, rest)
    | .error e => .error e
  | _ + 1, [] => .error .truncated

/-- The bytes of a list preceded by their count. -/
def takeCounted (bs : List Byte) : Except DecodeError (List Byte × List Byte) :=
  match take24 bs with
  | .ok (n, rest) => takeBytes n rest
  | .error e => .error e

/-- A buffer name: TX 0, RX 1 (the numbering of `buf_sel`, R109). -/
def decodeSpace (code : Nat) : Except DecodeError Space :=
  match code with
  | 0 => .ok .tx
  | 1 => .ok .rx
  | _ => .error .reservedBits

/-- A comparison site, in the order of the table of 60_exceptions.md R223. -/
def decodeSite (code : Nat) : Except DecodeError Site :=
  match code with
  | 0 => .ok .ckWb
  | 1 => .ok .ckWe
  | 2 => .ok .ckRb
  | 3 => .ok .ckRe
  | _ => .error .reservedBits

/-- A micro-operation by its code on `uop` (R113), with its operands. -/
def decodeUop (code : Nat) (bs : List Byte) : Except DecodeError (Instr × List Byte) :=
  match code with
  | 0 => .ok (.uopNone, bs)
  | 1 => .ok (.csAssert, bs)
  | 2 => .ok (.csDeassert, bs)
  | 3 => do let (b, bs) ← take8 bs; .ok (.xchg b, bs)
  | 4 => do let (n, bs) ← take16 bs; .ok (.delayUs n, bs)
  | 5 => .ok (.irqEn, bs)
  | 6 => .ok (.irqDis, bs)
  | 7 => .ok (.irqLvl, bs)
  | 8 => do let (p, bs) ← takeIndex bs; let (n, bs) ← take16 bs; .ok (.deliver p n, bs)
  | 9 => do
    let (b, bs) ← take8 bs
    let (t, bs) ← take8 bs
    let sp ← decodeSpace b.toNat
    let site ← decodeSite t.toNat
    .ok (.checkGuard sp site, bs)
  | 10 => do let (n, bs) ← take16 bs; .ok (.buildHdr n, bs)
  | 11 => .ok (.decodeHdr, bs)
  | 12 => do let (b, bs) ← takeIndex bs; let (n, bs) ← take17 bs; .ok (.shuttleTx b n, bs)
  | 13 => do
    let (b, bs) ← takeIndex bs
    let (n, bs) ← take17 bs
    let (k, bs) ← take17 bs
    .ok (.shuttleRx b n k, bs)
  | _ => .error .unusedUop

/-- A host command by its code on `cmd` (R107), with the operand of SUBMIT_WRITE. -/
def decodeCommand (code : Nat) (bs : List Byte) : Except DecodeError (Instr × List Byte) :=
  match code with
  | 0 => .ok (.nocmd, bs)
  | 1 => .ok (.init, bs)
  | 2 => do let (n, bs) ← take16 bs; .ok (.submitWrite n, bs)
  | 3 => .ok (.cmdReserved, bs)
  | _ => .error .unusedCode

/-- A write header as it stands on the wire (R91). -/
def decodeWrframe (bs : List Byte) : Except DecodeError (Instr × List Byte) :=
  match bs with
  | t :: h :: l :: z3 :: z4 :: rest =>
    if z3 = 0 ∧ z4 = 0 then .ok (.wrframe t h l, rest) else .error .reservedBits
  | _ => .error .truncated

/-- A read header as it stands on the wire: ten bytes, the kind by the tag (R95, R96). -/
def decodeRdframe (c : Config) (bs : List Byte) : Except DecodeError (Instr × List Byte) :=
  match takeBytes 10 bs with
  | .error e => .error e
  | .ok (h, rest) =>
    match Machine.headerKind c h with
    | .data => .ok (.rdframeData h, rest)
    | .event => .ok (.rdframeEvent h, rest)
    | .other => .ok (.rdframeOther h, rest)

/-- A pseudo-action of a script (R115). -/
def decodePseudo (code : Nat) (bs : List Byte) : Except DecodeError (Instr × List Byte) :=
  match code with
  | 0 => .ok (.edge, bs)
  | 1 => do let (p, bs) ← takeCounted bs; .ok (.frameIn p, bs)
  | 2 => do let (n, bs) ← take16 bs; let (p, bs) ← takeCounted bs; .ok (.write n p, bs)
  | _ => .error .unusedCode

/-- The operation at the head of the bytes, before the check of `Instr.wf`. -/
def decodeRaw (c : Config) (bs : List Byte) : Except DecodeError (Instr × List Byte) :=
  match bs with
  | [] => .error .empty
  | op :: rest =>
    let code := op.toNat % 16
    match op.toNat / 16 with
    | 0 => decodeUop code rest
    | 1 => decodeCommand code rest
    | 2 => .ok (decodeIrq (BitVec.ofNat 4 code), rest)
    | 3 => if code = 0 then decodeWrframe rest else .error .unusedCode
    | 4 => if code = 0 then decodeRdframe c rest else .error .unusedCode
    | 5 => decodePseudo code rest
    | _ => .error .unusedCode

/-- The operation at the head of the bytes and the bytes after it. Total on any bytes. -/
def decode (c : Config) (bs : List Byte) : Except DecodeError (Instr × List Byte) :=
  match decodeRaw c bs with
  | .error e => .error e
  | .ok (i, rest) => if i.wf c then .ok (i, rest) else .error .illFormed

/-- The first byte of an encoding: code space and code. -/
def opByte (space code : Nat) : Byte := BitVec.ofNat 8 (16 * space + code)

/-- A 16-bit operand in two bytes. -/
def put16 (v : Half) : List Byte := [Machine.loByte v, Machine.hiByte v]

/-- A 17-bit operand in three bytes. -/
def put17 (v : Count) : List Byte := [v.extractLsb' 0 8, v.extractLsb' 8 8, (v.extractLsb' 16 1).zeroExtend 8]

/-- The bytes of a buffer index, by a bound on their number. -/
def putIndexIn : Nat → Nat → List Byte
  | 0, n => [BitVec.ofNat 8 n]
  | bound + 1, n =>
    if n < 128 then [BitVec.ofNat 8 n] else BitVec.ofNat 8 (128 + n % 128) :: putIndexIn bound (n / 128)

/-- The bytes of a buffer index; an index has no more of them than its value, or one. -/
def putIndex (n : Nat) : List Byte := putIndexIn n n

/-- The bytes of a list preceded by their count in three bytes. -/
def putCounted (bs : List Byte) : List Byte :=
  [BitVec.ofNat 8 bs.length, BitVec.ofNat 8 (bs.length / 256), BitVec.ofNat 8 (bs.length / 65536)] ++ bs

/-- The code of a buffer name. -/
def encodeSpace : Space → Byte
  | .tx => 0
  | .rx => 1

/-- The code of a comparison site. -/
def encodeSite : Site → Byte
  | .ckWb => 0
  | .ckWe => 1
  | .ckRb => 2
  | .ckRe => 3

/-- The bytes of an operation, from the same tables. -/
def encode : Instr → List Byte
  | .uopNone => [opByte 0 0]
  | .csAssert => [opByte 0 1]
  | .csDeassert => [opByte 0 2]
  | .xchg b => [opByte 0 3, b]
  | .delayUs n => opByte 0 4 :: put16 n
  | .irqEn => [opByte 0 5]
  | .irqDis => [opByte 0 6]
  | .irqLvl => [opByte 0 7]
  | .deliver p n => opByte 0 8 :: (putIndex p ++ put16 n)
  | .checkGuard sp site => [opByte 0 9, encodeSpace sp, encodeSite site]
  | .buildHdr n => opByte 0 10 :: put16 n
  | .decodeHdr => [opByte 0 11]
  | .shuttleTx b n => opByte 0 12 :: (putIndex b ++ put17 n)
  | .shuttleRx b n k => opByte 0 13 :: (putIndex b ++ put17 n ++ put17 k)
  | .nocmd => [opByte 1 0]
  | .init => [opByte 1 1]
  | .submitWrite n => opByte 1 2 :: put16 n
  | .cmdReserved => [opByte 1 3]
  | .onIrqPowerup => [opByte 2 0]
  | .onIrqIdle => [opByte 2 2]
  | .onIrqWriteirq => [opByte 2 3]
  | .onIrqOther code => [opByte 2 code.toNat]
  | .wrframe t h l => opByte 3 0 :: Machine.headerBytes t h l
  | .rdframeData h => opByte 4 0 :: h
  | .rdframeEvent h => opByte 4 0 :: h
  | .rdframeOther h => opByte 4 0 :: h
  | .edge => [opByte 5 0]
  | .frameIn p => opByte 5 1 :: putCounted p
  | .write n p => opByte 5 2 :: (put16 n ++ putCounted p)

/-- n bytes of a number, the least significant first. -/
def leBytes : Nat → Nat → List Byte
  | 0, _ => []
  | n + 1, w => BitVec.ofNat 8 w :: leBytes n (w / 256)

/-- The bytes at which this model's decoder reads a row of spec/opcode_table.json (log 16). Forty bits are a write
header and eighty a read header, one or two bits a host command; anything else is the container of log 15 with
every operand byte above the given bits zero. -/
def tableBytes (nbits w : Nat) : List Byte :=
  if nbits = 40 then opByte 3 0 :: leBytes 5 w
  else if nbits = 80 then opByte 4 0 :: leBytes 10 w
  else if nbits ≤ 2 then opByte 1 (w % 4) :: List.replicate 12 0
  else leBytes ((nbits + 7) / 8) w ++ List.replicate 12 0

/-- What the decoder reads from a table word, under the parameters of `State.reset` (log 16). -/
def decodeTableWord (nbits w : Nat) : Option Instr :=
  match decode Config.p0 (tableBytes nbits w) with
  | .ok (i, _) => some i
  | .error _ => none

end Sys2Proof
end

