-- ==== Sys2Proof/Machine/State.lean ====
section
/-! DEFINITION. The state of HDST (spec/10_state.md R20 to R41), the ports' registers (30_encoding.md R108 to R112),
the environment as plain data (00_scope.md R18, 30_encoding.md R114), and the state after reset. -/

namespace Sys2Proof.Machine

/-- A buffer: the bytes that something has written, as (index, byte) with indices strictly rising. An index that is
not listed holds no value yet (10_state.md R41: "holding no value until a rule writes it"; log 3). -/
abbrev Memory := List Host.Cell

/-- The canonical form: strictly rising indices. -/
def Memory.wf : Memory → Bool
  | [] => true
  | [_] => true
  | a :: b :: rest => decide (a.1 < b.1) && Memory.wf (b :: rest)

/-- The trace events of 30_encoding.md R114. -/
inductive Event where
  /-- `CS+` -/
  | csUp
  /-- `CS-` -/
  | csDown
  /-- `D(t)` -/
  | delay (us : Half)
  /-- `X(o/i)` -/
  | exchange (out inp : Byte)
  /-- `DELIVER(ptr,len)` -/
  | deliver (ptr : Nat) (len : Half)
  /-- `HALT(site)` -/
  | halt (site : Site)
  /-- `ST(name)` -/
  | st (value : TransportState)
  /-- `EN+` -/
  | enUp
  /-- `EN-` -/
  | enDown
  /-- `LVL=v` -/
  | level (v : Bool)
  deriving DecidableEq, Repr

/-- How the timer or the sink answers a request (70_reset_and_hazards.md R266, R272; log 9, 27). -/
inductive Peer where
  /-- no acknowledgement yet -/
  | silent
  /-- one acknowledgement is given to the request that stands -/
  | acked
  /-- every request is acknowledged at once -/
  | auto
  deriving DecidableEq, Repr

/-- What the environment can do at a step boundary (00_scope.md R18; 30_encoding.md R114; log 8). -/
inductive Action where
  /-- `RESET`: the input `rst` (70_reset_and_hazards.md R250). -/
  | reset
  /-- The host puts a command on the command port (R108), accepted at a later boundary; a line "at W_INIT" or "at W_ACC"
  can stand between (log 8, 11). -/
  | present (cmd : BitVec 2) (wrLen : Half)
  /-- `HOST TX[i] = b ...`, `HOST RX[i] = b ...`: stores through the buffer port (R109). -/
  | host (sp : Space) (index : Nat) (bytes : List Byte)
  /-- `LINE v`: the logical request level, followed by the synchroniser (R114). -/
  | line (v : Bool)
  /-- One rising edge of `clk` with a level on the request pin (41_irq_sync.md R141). -/
  | clk (pin : Bool)
  /-- `REPLY b ...`: the coprocessor's answers to the next exchanges, in order. -/
  | reply (bytes : List Byte)
  /-- What the byte engine does when no reply is listed: answer a byte, or give no acknowledgement. -/
  | engine (unlisted : Option Byte)
  /-- How the delay timer answers from now on. -/
  | timer (p : Peer)
  /-- How the sink answers from now on. -/
  | sink (p : Peer)
  /-- The timer acknowledges the delay that stands, `d_ack` (R110). -/
  | timerAck
  /-- `ACK`: the sink acknowledges the delivery that stands, `s_ack` (R112). -/
  | ack
  /-- The operation that the bytes encode is issued: a host command or a pseudo-action as a script line has it, or,
  by this model's own means, a micro-operation or a frame (log 17, 18). -/
  | issue (word : List Byte)
  /-- The environment does nothing at this boundary. -/
  | pass
  deriving DecidableEq, Repr

/-- When an action of the script happens (R114: "at W_CR2: LINE 1"; log 8). -/
inductive When where
  /-- at the boundary at which it is the script's first item -/
  | now
  /-- just before the micro-step of W with this label -/
  | atW (label : WLabel)
  /-- just before the micro-step of I with this label -/
  | atI (label : ILabel)
  /-- when neither sequencer nor a waiting command can move -/
  | still
  deriving DecidableEq, Repr

/-- One line of a script. -/
structure Item where
  due : When
  act : Action
  deriving DecidableEq, Repr

/-- The environment: what it will do, and the pins it drives. None of it is state of HDST (10_state.md R20). -/
structure Env where
  /-- the script, first line first -/
  script   : List Item
  /-- the bytes the coprocessor answers to the next exchanges -/
  replies  : List Byte
  /-- the answer to an exchange with no reply listed; none: no acknowledgement -/
  xAuto    : Option Byte
  timer    : Peer
  sink     : Peer
  /-- `cmd_valid`, `cmd[1:0]`, `wr_len[15:0]` (R108) -/
  cmdValid : Bool
  cmd      : BitVec 2
  wrLen    : Half
  deriving DecidableEq, Repr

/-- The machine. The field names are the spec's registers; INVENTORY.md lists each with its rule. -/
structure State where
  /-- the parameters of 00_scope.md R11 (log 1) -/
  cfg      : Config
  -- 10_state.md R21
  state    : TransportState
  -- datapath registers, R23 to R27
  txPtr    : Nat
  txLen    : Count
  txRem    : Count
  wrL      : Half
  pad      : BitVec 1
  txTot    : Count
  rxKind   : FrameKind
  rxLen    : Half
  rxN      : Count
  rxRem    : Count
  lvl      : Bool
  -- sequencer positions, R28, R29
  wpc      : WLabel
  ipc      : ILabel
  -- flags, R30 to R34, and the synchroniser chain, 41_irq_sync.md R141
  cs       : Bool
  irqEn    : Bool
  irqPend  : Bool
  irqMeta  : Bool
  irqChain : List Bool
  irqS     : Bool
  irqPrev  : Bool
  halted   : Bool
  -- buffers, R36, R37
  tx       : Memory
  rx       : Memory
  -- port registers, 30_encoding.md R110, R112
  xReq     : Bool
  xOut     : Byte
  xIn      : Byte
  dReq     : Bool
  dUs      : Half
  sValid   : Bool
  sPtr     : Nat
  sLen     : Half
  -- the model's own fields
  /-- the cursor of the transmit shuttle in progress is loaded (log 10) -/
  txOpen   : Bool
  /-- the cursor of the receive shuttle in progress is loaded (log 10) -/
  rxOpen   : Bool
  /-- a directly issued micro-operation that waits on the uop bus (log 18) -/
  uop      : Option Instr
  /-- which power-on or reset the unwritten buffer bytes date from (log 3) -/
  epoch    : Nat
  /-- how many bytes have been loaded from outside the block (log 4) -/
  free     : Nat
  /-- the trace of R114, newest event first (log 21) -/
  trace    : List Event
  /-- the environment (log 8) -/
  env      : Env
  deriving DecidableEq, Repr

/-- Why the machine stops. -/
inductive Fault where
  /-- Raised by `step` when W, I or a waiting micro-operation would move while `halted = 1` (60_exceptions.md R221,
  R225: "A model must treat the halted state as a fault"). Safe: the hardware takes no step either. -/
  | corruption
  /-- Raised by SHUTTLE_RX at the first store above RX_CAP (20_memory.md R67, 93_implementation_defined.md U6). Safe:
  the hardware goes on with memory the spec does not define. -/
  | rxOverrun
  /-- Raised by DECODE_HDR and RDFRAME.EVENT on an event length byte of 0 (30_encoding.md R101,
  93_implementation_defined.md U3). Safe: the spec leaves the case unspecified and says that a model faults. -/
  | eventLengthZero
  deriving DecidableEq, Repr

/-- Why a step has no meaning. -/
inductive Refusal where
  /-- Raised by `exec`'s arm of an instruction that has no meaning yet. Safe. -/
  | notModelled (mnemonic : String)
  /-- Raised by `step` on an issued word that does not decode (30_encoding.md R113: codes 14 and 15 are unused; log
  15). Safe. -/
  | badWord (e : DecodeError)
  /-- Raised by a host store, also that of WRITE, to an index the buffer port does not have (30_encoding.md R109; log
  23). Safe. -/
  | bufferIndex
  deriving DecidableEq, Repr

/-- The outcome of a micro-step. -/
abbrev Result := Host.Outcome State Fault Refusal

/-- The environment that waits: no script, replies unlisted answered 0x00 (R114), delays acknowledged at once,
deliveries not yet (log 27). -/
def Env.initial : Env where
  script := []
  replies := []
  xAuto := some 0x00
  timer := .auto
  sink := .silent
  cmdValid := false
  cmd := 0
  wrLen := 0

/-- The machine with given parameters right after power-on and hardware reset (10_state.md R41,
70_reset_and_hazards.md R250, R251). The datapath and port data registers have no reset value in the spec; they
hold zero here (DESIGN CHOICE, log 2, 14). -/
def State.initial (c : Config) : State where
  cfg := c
  state := .powerUp
  txPtr := 0
  txLen := 0
  txRem := 0
  wrL := 0
  pad := 0
  txTot := 0
  rxKind := .other
  rxLen := 0
  rxN := 0
  rxRem := 0
  lvl := false
  wpc := .rest
  ipc := .rest
  cs := false
  irqEn := false
  irqPend := false
  irqMeta := false
  irqChain := List.replicate (c.syncStages - 2) false
  irqS := false
  irqPrev := false
  halted := false
  tx := []
  rx := []
  xReq := false
  xOut := 0
  xIn := 0
  dReq := false
  dUs := 0
  sValid := false
  sPtr := 0
  sLen := 0
  txOpen := false
  rxOpen := false
  uop := none
  epoch := 0
  free := 0
  trace := []
  env := Env.initial

/-- The machine right after reset, with the parameter set P0 (log 1). -/
def State.reset : State := State.initial Config.p0

end Sys2Proof.Machine
end

