-- ==== Sys2Proof/Machine/Ops.lean ====
section
/-! DEFINITION. The named operations over memory, registers and ports that the meanings share: reading and writing a
buffer byte, the trace, the handshakes, the request line, the command port, the fault and the interrupt entry and
return, reset. -/

namespace Sys2Proof.Machine

/-! ## Buffers (20_memory.md) -/

/-- The byte listed at an index; none where nothing has written (R41). -/
def Memory.read? : Memory → Nat → Option Byte
  | [], _ => none
  | (a, b) :: rest, i => if a = i then some b else Memory.read? rest i

/-- `MemWrite` (R15): stores one byte, keeping the canonical form. -/
def Memory.write : Memory → Nat → Byte → Memory
  | [], i, v => [(i, v)]
  | (a, b) :: rest, i, v =>
    if i < a then (i, v) :: (a, b) :: rest
    else if i = a then (i, v) :: rest
    else (a, b) :: Memory.write rest i v

/-- Stores bytes at an index and the indices after it, the first at the lowest. -/
def Memory.writeBytes : Memory → Nat → List Byte → Memory
  | m, _, [] => m
  | m, i, b :: bs => Memory.writeBytes (m.write i b) (i + 1) bs

/-- The capacity of a buffer, which is the index of its guard (R36, R37, R65). -/
def State.cap (s : State) : Space → Nat
  | .tx => s.cfg.txCap
  | .rx => s.cfg.rxCap

/-- The memory behind a buffer name. -/
def State.mem (s : State) : Space → Memory
  | .tx => s.tx
  | .rx => s.rx

/-- `MemRead` inside a buffer (R15): the byte written there, else the free value of that cell (log 3). -/
def State.bufByte (s : State) (sp : Space) (i : Nat) : Byte :=
  ((s.mem sp).read? i).getD (Config.unwrittenByte s.epoch sp i)

/-- The guard byte of a buffer (R65). -/
def State.guardByte (s : State) (sp : Space) : Byte := s.bufByte sp (s.cap sp)

/-- Stores bytes into a buffer. The callers keep the indices at or below the capacity. -/
def State.store (s : State) (sp : Space) (i : Nat) (bs : List Byte) : State :=
  match sp with
  | .tx => { s with tx := s.tx.writeBytes i bs }
  | .rx => { s with rx := s.rx.writeBytes i bs }

/-- The ten bytes of the read header in RX (30_encoding.md R95). -/
def State.rxHeader (s : State) : List Byte := (List.range 10).map (s.bufByte .rx)

/-! ## Registers and the trace -/

/-- Records an event of R114. -/
def emit (e : Event) (s : State) : State := { s with trace := e :: s.trace }

/-- `state <- v` (10_state.md R21), the event `ST(v)`. -/
def setState (v : TransportState) (s : State) : State := emit (.st v) { s with state := v }

/-- `wpc <- LABEL` (R28). -/
def goW (label : WLabel) (s : State) : State := { s with wpc := label }

/-- `ipc <- LABEL` (R29). -/
def goI (label : ILabel) (s : State) : State := { s with ipc := label }

/-- `CsAssert` (40_bus_driver.md R121): when `cs` is already 1 nothing changes and no pulse appears. -/
def csAssert (s : State) : State := if s.cs then s else emit .csUp { s with cs := true }

/-- `CsDeassert` (R122): when `cs` is already 0 nothing changes. -/
def csDeassert (s : State) : State := if s.cs then emit .csDown { s with cs := false } else s

/-- `IrqEnable` (41_irq_sync.md R146). -/
def irqEnable (s : State) : State := emit .enUp { s with irqEn := true }

/-- `IrqDisable` (R147). -/
def irqDisable (s : State) : State := emit .enDown { s with irqEn := false }

/-- `IrqLevel` (R148): the level, with the event that the trace of R114 has for it. -/
def irqLevel (s : State) : State := emit (.level s.irqS) s

/-! ## Handshakes (30_encoding.md R110, R112) -/

/-- The byte engine's answer to the request that stands, and the replies left; none: no acknowledgement. -/
def Env.answer? (e : Env) : Option (Byte × List Byte) :=
  match e.replies with
  | r :: rest => some (r, rest)
  | [] => e.xAuto.map fun r => (r, [])

/-- Whether a peer acknowledges now, and how it answers the next request. -/
def Peer.acks : Peer → Bool
  | .silent => false
  | .acked | .auto => true

/-- The peer after its acknowledgement is taken: R110, one acknowledgement for one request. -/
def Peer.taken : Peer → Peer
  | .auto => .auto
  | .silent | .acked => .silent

/-- The peer that gives an acknowledgement to the request that stands. -/
def Peer.give : Peer → Peer
  | .auto => .auto
  | .silent | .acked => .acked

/-- The end of `Xchg` (R123): on the acknowledgement `r <- x_in; x_req <- 0`, else the request stands. -/
def pollXchg (s : State) : State :=
  match s.env.answer? with
  | none => s
  | some (r, rest) =>
    emit (.exchange s.xOut r) { s with xReq := false, xIn := r, env := { s.env with replies := rest } }

/-- `Xchg(b)` (R123), one attempt: the request is raised once and holds its byte until the acknowledgement. -/
def xchg (b : Byte) (s : State) : State :=
  pollXchg (if s.xReq then s else { s with xReq := true, xOut := b })

/-- `Delay(n)` (R124), one attempt; the event D(n) is recorded when the request is raised (log 21). -/
def delayUs (n : Half) (s : State) : State :=
  let s := if s.dReq then s else emit (.delay n) { s with dReq := true, dUs := n }
  if s.env.timer.acks then { s with dReq := false, env := { s.env with timer := s.env.timer.taken } } else s

/-- `Deliver(ptr, len)` (43_transport_read.md R205), one attempt; the event is recorded when the request is raised
(log 21). -/
def deliver (ptr : Nat) (len : Half) (s : State) : State :=
  let s :=
    if s.sValid then s else emit (.deliver ptr len) { s with sValid := true, sPtr := ptr, sLen := len }
  if s.env.sink.acks then { s with sValid := false, env := { s.env with sink := s.env.sink.taken } } else s

/-! ## The shuttles (40_bus_driver.md R126 to R128) -/

/-- Raises the exchange of a byte loaded from TX. At an index above the guard the byte comes from outside the block
and is a free value (20_memory.md R68; log 4). -/
def raiseFromTx (i : Nat) (s : State) : State :=
  if s.xReq then s
  else if i ≤ s.cfg.txCap then { s with xReq := true, xOut := s.bufByte .tx i }
  else { s with xReq := true, xOut := Config.extByte s.free, free := s.free + 1 }

/-- One micro-step of `ShuttleTx(base, n)` (R126): the first loads the cursor, each makes one exchange, the last
leaves `tx_rem = 0` and closes the shuttle; with `n = 0` nothing is exchanged (log 10). -/
def shuttleTx (base : Nat) (n : Count) (s : State) : State :=
  let s := if s.txOpen then s else { s with txOpen := true, txRem := n }
  if s.txRem = 0 then { s with txOpen := false }
  else
    let s := pollXchg (raiseFromTx (base + cursor n s.txRem) s)
    if s.xReq then s else { s with txRem := s.txRem - 1, txOpen := s.txRem - 1 != 0 }

/-- `MemWrite(RX, i, 1, v)` of a received byte (20_memory.md R67): the guard index is a store like any other, an index
above it leaves the buffer and the model faults (U6; log 5). -/
def storeReceived (i : Nat) (v : Byte) (s : State) : Result :=
  if i ≤ s.cfg.rxCap then .next { s with rx := s.rx.write i v } else .fault .rxOverrun

/-- Applies a change to the next state of a result. -/
def andThen (f : State → State) : Result → Result
  | .next s => .next (f s)
  | .fault r => .fault r
  | .refused r => .refused r

/-- One micro-step of `ShuttleRx(base, n, k0)` (R127), as `shuttleTx`. -/
def shuttleRx (base : Nat) (n k0 : Count) (s : State) : Result :=
  let s := if s.rxOpen then s else { s with rxOpen := true, rxRem := n }
  if s.rxRem = 0 then .next { s with rxOpen := false }
  else
    let k := cursor n s.rxRem
    let s := xchg (rdTxAt s.cfg (k0.toNat + k)) s
    if s.xReq then .next s
    else andThen (fun s => { s with rxRem := s.rxRem - 1, rxOpen := s.rxRem - 1 != 0 })
      (storeReceived (base + k) s.xIn s)

/-! ## The fault and the interrupt (60_exceptions.md) -/

/-- `raise Corruption(site)` (R221): the block halts; nothing is saved, nothing else changes (R224). The site is only
the name in the trace. -/
def raiseCorruption (site : Site) (s : State) : State := emit (.halt site) { s with halted := true }

/-- `CheckGuard(S, site)` (R222). -/
def checkGuard (sp : Space) (site : Site) (s : State) : State :=
  if guardOk s.cfg (s.guardByte sp) then s else raiseCorruption site s

/-- Entry of the interrupt path (R190, R230): control goes to I_TAKE, nothing is saved, no mode changes. -/
def irqEnter (s : State) : State := goI .take s

/-- Return of the interrupt path (R231): nothing is restored. -/
def irqReturn (s : State) : State := goI .rest s

/-- The start condition of the interrupt path (43_transport_read.md R190). DESIGN CHOICE (log 32): it does not ask
whether W holds in a handshake whose request stands, so I may start there. -/
def State.irqStart (s : State) : Bool :=
  s.irqPend && decide (s.ipc = .rest) && !s.halted && !inhibited s.wpc

/-- The common beginning of the arms of I_TAKE (R191): `irq_pend <- 0`. -/
def takeEdge (s : State) : State := { s with irqPend := false }

/-! ## The request line (41_irq_sync.md) -/

/-- One rising edge of `clk` with a logical level on the line: the synchroniser (R141), then the edge detector
(R142) and the pending bit (R144). -/
def clockEdge (level : Bool) (s : State) : State :=
  let irqS := syncOut s.irqMeta s.irqChain
  { s with
    irqMeta := level
    irqChain := syncShift s.irqMeta s.irqChain
    irqS := irqS
    irqPrev := s.irqS
    irqPend := pendNext s.irqEn s.irqPend (edgeSeen irqS s.irqS) }

/-- n clock edges with the same level. -/
def clockEdges (level : Bool) : Nat → State → State
  | 0, s => s
  | n + 1, s => clockEdges level n (clockEdge level s)

/-- `LINE v` (30_encoding.md R114): the line takes the level and the synchronised level follows, which takes
SYNC_STAGES clock edges, and one more for the previous-sample bit (log 24). -/
def lineTo (level : Bool) (s : State) : State := clockEdges level (s.cfg.syncStages + 1) s

/-! ## The host's ports (30_encoding.md R108, R109) -/

/-- `busy` (10_state.md R35). -/
def State.busy (s : State) : Bool := decide (s.wpc ≠ .rest)

/-- `cmd_ready` (R108). -/
def State.cmdReady (s : State) : Bool :=
  decide (s.wpc = .rest) && decide (s.ipc = .rest) && !s.irqPend && !s.halted

/-- `state[3:0]` (10_state.md R38). -/
def State.stateBits (s : State) : BitVec 4 := stateCode s.state

/-- `fault_corrupt` (R34, R38). -/
def State.faultCorrupt (s : State) : Bool := s.halted

/-- `cs_pin` (R110). -/
def State.csPin (s : State) : Bool := csPinLevel s.cfg s.cs

/-- `buf_rdata` (R109): a read through the buffer port, without side effect (20_memory.md R75); none for an index the
port does not have. -/
def State.bufRdata (s : State) (sp : Space) (i : Nat) : Option Byte :=
  if i ≤ s.cap sp then some (s.bufByte sp i) else none

/-- The host puts a command on the command port and holds it there (R108, 70_reset_and_hazards.md R265). -/
def present (cmd : BitVec 2) (wrLen : Half) (s : State) : State :=
  { s with env := { s.env with cmdValid := true, cmd := cmd, wrLen := wrLen } }

/-- The command on the port is gone: accepted, or none is presented. -/
def withdraw (s : State) : State := { s with env := { s.env with cmdValid := false } }

/-- A store of the host through the buffer port (R109), any byte of a buffer, the guard included. While halted every
buffer byte keeps its value (60_exceptions.md R221), so the store has no effect then. -/
def hostStore (sp : Space) (i : Nat) (bs : List Byte) (s : State) : Result :=
  if i + bs.length ≤ s.cap sp + 1 then .next (if s.halted then s else s.store sp i bs) else .refused .bufferIndex

/-- `W_INIT` (42_transport_write.md R161). -/
def initStep (s : State) : State :=
  let s := s.store .rx s.cfg.rxCap [s.cfg.sentinel]
  let s := s.store .tx s.cfg.txCap [s.cfg.sentinel]
  goW .rest (irqEnable (setState .powerUp s))

/-- `W_ACC` (R163). -/
def acceptWrite (len : Half) (s : State) : State := goW .ckb { s with wrL := len }

/-- A host command: accepted when `cmd_ready = 1` (R108), else it stays on the port until it is (R265). -/
def hostCommand (cmd : BitVec 2) (wrLen : Half) (effect : State → State) (s : State) : State :=
  if s.cmdReady then effect (withdraw s) else present cmd wrLen s

/-! ## Reset (70_reset_and_hazards.md R250, R251) -/

/-- The input `rst`: the values of 10_state.md R41, every request lowered. Datapath and port data registers are not
cleared; the buffers hold no value until written. Parameters, trace and environment are not HDST's to reset, but an
acknowledgement of a lowered request is gone (log 13). DESIGN CHOICE (log 33): a reset records no event, also where it
releases chip-select in the middle of a frame (R252) or writes `state`. DESIGN CHOICE (log 34): no level of the request
line is kept across a reset; `irq_s` stays 0 until a later action of the line, whatever was driven before. -/
def hwReset (s : State) : State :=
  { s with
    state := .powerUp
    wpc := .rest
    ipc := .rest
    cs := false
    irqEn := false
    irqPend := false
    irqMeta := false
    irqChain := List.replicate (s.cfg.syncStages - 2) false
    irqS := false
    irqPrev := false
    halted := false
    tx := []
    rx := []
    xReq := false
    dReq := false
    sValid := false
    txOpen := false
    rxOpen := false
    uop := none
    epoch := s.epoch + 1
    env := { s.env with timer := s.env.timer.taken, sink := s.env.sink.taken } }

end Sys2Proof.Machine
end

