-- ==== Sys2Proof/Machine/Codec.lean ====
section
/-! DEFINITION. The frame codec and the guard comparison (spec/30_encoding.md R91 to R105, 60_exceptions.md R222):
BUILD_HDR, DECODE_HDR, CHECK_GUARD, and the wire frames WRFRAME, RDFRAME.DATA, RDFRAME.EVENT, RDFRAME.OTHER. -/

namespace Sys2Proof.Machine

/-- CHECK_GUARD (60_exceptions.md R222). -/
def execCheckGuard (sp : Space) (site : Site) (s : State) : Result := .next (checkGuard sp site s)

/-- BUILD_HDR (R92, 42_transport_write.md R165): `(pad, hdr, tx_tot) <- BuildHdr(L)` and the header written in place
at TX[0 .. 4]. -/
def execBuildHdr (len : Half) (s : State) : Result :=
  .next ({ s with pad := writePad len, txTot := writeTotal len }.store .tx 0 (writeHeader s.cfg len))

/-- The registers that a decoded header leaves (43_transport_read.md R199). -/
def setDecoded (kind : FrameKind) (len : Half) (n : Count) (s : State) : State :=
  { s with rxKind := kind, rxLen := len, rxN := n }

/-- DECODE_HDR (R99, 43_transport_read.md R199): `(rx_kind, rx_len, rx_n) <- Decode(RX[0 .. 9])`. The event length
byte 0 is unspecified and the model faults (R101, U3; log 6). -/
def execDecodeHdr (s : State) : Result :=
  match decodeHeader s.cfg s.rxHeader with
  | some (kind, len, n) => .next (setDecoded kind len n s)
  | none => .fault .eventLengthZero

/-- WRFRAME (R90, R91): the write frame with this header is sent as one transaction. The first micro-step asserts
chip-select and places the header at TX[0 .. 4]; each sends one byte of the frame, header first; the last releases
chip-select (log 19). -/
def execWrframe (tag lengthHi lengthLo : Byte) (s : State) : Result :=
  let s := if s.txOpen then s else csAssert (s.store .tx 0 (headerBytes tag lengthHi lengthLo))
  let s := shuttleTx 0 (frameTotal lengthHi lengthLo) s
  .next (if s.txOpen then s else csDeassert s)

/-- RDFRAME.DATA (R95, R97, R102): a data header is in RX[0 .. 9] and decoded (log 20). -/
def execRdframeData (h : List Byte) (s : State) : Result :=
  .next (setDecoded .data (dataLen s.cfg h) (readCount s.cfg (dataLen s.cfg h)) (s.store .rx 0 h))

/-- RDFRAME.EVENT (R95, R101, R102): an event header is in RX[0 .. 9] and decoded; its length byte 0 is unspecified
and the model faults (log 6, 20). -/
def execRdframeEvent (h : List Byte) (s : State) : Result :=
  match evtLen s.cfg h with
  | some len => .next (setDecoded .event len (readCount s.cfg len) (s.store .rx 0 h))
  | none => .fault .eventLengthZero

/-- RDFRAME.OTHER (R95, R100): any other header is a zero-payload frame (log 20). -/
def execRdframeOther (h : List Byte) (s : State) : Result :=
  .next (setDecoded .other 0 0 (s.store .rx 0 h))

end Sys2Proof.Machine
end

