-- ==== Sys2Proof/Machine/Command.lean ====
section
/-! DEFINITION. The host commands (spec/30_encoding.md R107, R108, 42_transport_write.md R161 to R163): NOCMD, INIT,
SUBMIT_WRITE, CMD_RESERVED. A command is accepted in one micro-step when `cmd_ready = 1` and otherwise stays on the
command port. The micro-steps of SUBMIT_WRITE after the acceptance are in Machine/Caller.lean. -/

namespace Sys2Proof.Machine

/-- NOCMD (R107): no command is presented. -/
def execNocmd (s : State) : Result := .next (withdraw s)

/-- INIT (R161): one micro-step. -/
def execInit (s : State) : Result := .next (hostCommand 1 s.env.wrLen initStep s)

/-- SUBMIT_WRITE (R162, R163): the acceptance. -/
def execSubmitWrite (len : Half) (s : State) : Result := .next (hostCommand 2 len (acceptWrite len) s)

/-- CMD_RESERVED (R107): accepted, no effect. -/
def execCmdReserved (s : State) : Result := .next (hostCommand 3 s.env.wrLen id s)

end Sys2Proof.Machine
end

