-- ==== Sys2Proof/Machine/Driver.lean ====
section
/-! DEFINITION. The byte-shuttle driver (spec/40_bus_driver.md): CS_ASSERT, CS_DEASSERT, XCHG, DELAY_US, SHUTTLE_TX,
SHUTTLE_RX, and UOP_NONE. A meaning of a handshake or a shuttle is ONE micro-step; while the request stands
(`xReq`, `dReq`) or the shuttle is open (`txOpen`, `rxOpen`) the sequencer issues it again. -/

namespace Sys2Proof.Machine

/-- UOP_NONE (30_encoding.md R113): no micro-operation. -/
def execUopNone (s : State) : Result := .next s

/-- CS_ASSERT (R121). -/
def execCsAssert (s : State) : Result := .next (csAssert s)

/-- CS_DEASSERT (R122). -/
def execCsDeassert (s : State) : Result := .next (csDeassert s)

/-- XCHG (R123); the byte received is in `xIn` once `xReq` is 0 (log 22). -/
def execXchg (b : Byte) (s : State) : Result := .next (xchg b s)

/-- DELAY_US (R124). -/
def execDelayUs (n : Half) (s : State) : Result := .next (delayUs n s)

/-- SHUTTLE_TX (R126). -/
def execShuttleTx (base : Nat) (n : Count) (s : State) : Result := .next (shuttleTx base n s)

/-- SHUTTLE_RX (R127). -/
def execShuttleRx (base : Nat) (n k0 : Count) (s : State) : Result := shuttleRx base n k0 s

end Sys2Proof.Machine
end

