-- ==== Sys2Proof/Machine/Interrupt.lean ====
section
/-! DEFINITION. The interrupt event (spec/43_transport_read.md R191 to R193, R206, R207), one meaning per arm of
I_TAKE, and DELIVER (R205). The micro-steps of the arms after I_TAKE are in Machine/IrqPath.lean. -/

namespace Sys2Proof.Machine

/-- ON_IRQ.POWERUP (R192): the first edge announces the coprocessor; no data is read. -/
def execOnIrqPowerup (s : State) : Result := .next (irqReturn (setState .initialized (takeEdge s)))

/-- ON_IRQ.IDLE (R191, R193): the read of one frame starts. -/
def execOnIrqIdle (s : State) : Result := .next (goI .rd1 (takeEdge s))

/-- ON_IRQ.WRITEIRQ (R191, R207): the completion of an armed write starts. -/
def execOnIrqWriteirq (s : State) : Result := .next (goI .wr1 (takeEdge s))

/-- ON_IRQ.OTHER (R206): the edge is consumed and nothing else happens, whichever the code. -/
def execOnIrqOther (_code : BitVec 4) (s : State) : Result := .next (irqReturn (takeEdge s))

/-- DELIVER (R205). -/
def execDeliver (ptr : Nat) (len : Half) (s : State) : Result := .next (deliver ptr len s)

end Sys2Proof.Machine
end

