-- ==== Sys2Proof/Machine/IrqLine.lean ====
section
/-! DEFINITION. The request line's operations (spec/41_irq_sync.md): IRQ_EN, IRQ_DIS, IRQ_LVL. -/

namespace Sys2Proof.Machine

/-- IRQ_EN (R146). Enabling makes no edge (R145). -/
def execIrqEn (s : State) : Result := .next (irqEnable s)

/-- IRQ_DIS (R147). It does not clear `irq_pend`. -/
def execIrqDis (s : State) : Result := .next (irqDisable s)

/-- IRQ_LVL (R148): the result is `irq_s`; nothing but the trace changes (log 22). -/
def execIrqLvl (s : State) : Result := .next (irqLevel s)

end Sys2Proof.Machine
end

