-- ==== Sys2Proof/Machine/Script.lean ====
section
/-! DEFINITION. The pseudo-actions of scripts (spec/30_encoding.md R115): EDGE, FRAME_IN, WRITE. -/

namespace Sys2Proof.Machine

/-- `REPLY b ...` (R114): the answers to the next exchanges. DESIGN CHOICE (log 37): bytes of an earlier REPLY or
FRAME_IN that no exchange has used yet answer first. -/
def addReplies (bytes : List Byte) (s : State) : State :=
  { s with env := { s.env with replies := s.env.replies ++ bytes } }

/-- EDGE: `LINE 0` then `LINE 1`. -/
def execEdge (s : State) : Result := .next (lineTo true (lineTo false s))

/-- FRAME_IN b0 b1 ...: `REPLY b0 b1 ...` followed by EDGE. -/
def execFrameIn (bytes : List Byte) (s : State) : Result :=
  .next (lineTo true (lineTo false (addReplies bytes s)))

/-- WRITE L [p0 p1 ...]: `HOST TX[5] = p0 p1 ...` followed by `SUBMIT_WRITE L`. -/
def execWrite (len : Half) (payload : List Byte) (s : State) : Result :=
  andThen (hostCommand 2 len (acceptWrite len)) (hostStore .tx 5 payload s)

end Sys2Proof.Machine
end

