-- ==== Sys2Proof/Machine/Dispatch.lean ====
section
/-! DEFINITION. One arm per operation. -/

namespace Sys2Proof.Machine

def exec (i : Instr) (s : State) : Host.Outcome State Fault Refusal :=
  match i with
  | .nocmd => Sys2Proof.Machine.execNocmd s
  | .init => Sys2Proof.Machine.execInit s
  | .submitWrite len => Sys2Proof.Machine.execSubmitWrite len s
  | .cmdReserved => Sys2Proof.Machine.execCmdReserved s
  | .onIrqPowerup => Sys2Proof.Machine.execOnIrqPowerup s
  | .onIrqOther code => Sys2Proof.Machine.execOnIrqOther code s
  | .onIrqIdle => Sys2Proof.Machine.execOnIrqIdle s
  | .onIrqWriteirq => Sys2Proof.Machine.execOnIrqWriteirq s
  | .csAssert => Sys2Proof.Machine.execCsAssert s
  | .csDeassert => Sys2Proof.Machine.execCsDeassert s
  | .xchg b => Sys2Proof.Machine.execXchg b s
  | .delayUs n => Sys2Proof.Machine.execDelayUs n s
  | .irqEn => Sys2Proof.Machine.execIrqEn s
  | .irqDis => Sys2Proof.Machine.execIrqDis s
  | .irqLvl => Sys2Proof.Machine.execIrqLvl s
  | .deliver ptr len => Sys2Proof.Machine.execDeliver ptr len s
  | .checkGuard sp site => Sys2Proof.Machine.execCheckGuard sp site s
  | .buildHdr len => Sys2Proof.Machine.execBuildHdr len s
  | .decodeHdr => Sys2Proof.Machine.execDecodeHdr s
  | .shuttleTx base n => Sys2Proof.Machine.execShuttleTx base n s
  | .shuttleRx base n k0 => Sys2Proof.Machine.execShuttleRx base n k0 s
  | .uopNone => Sys2Proof.Machine.execUopNone s
  | .wrframe tag lengthHi lengthLo => Sys2Proof.Machine.execWrframe tag lengthHi lengthLo s
  | .rdframeData h => Sys2Proof.Machine.execRdframeData h s
  | .rdframeEvent h => Sys2Proof.Machine.execRdframeEvent h s
  | .rdframeOther h => Sys2Proof.Machine.execRdframeOther h s
  | .edge => Sys2Proof.Machine.execEdge s
  | .frameIn bytes => Sys2Proof.Machine.execFrameIn bytes s
  | .write len payload => Sys2Proof.Machine.execWrite len payload s

end Sys2Proof.Machine
end

