-- ==== Sys2Proof/Machine/Caller.lean ====
section
/-! DEFINITION. The caller path W: one micro-step for each label of `wpc` (spec/42_transport_write.md R160 to R185).
Each arm issues the micro-operation of its rule and moves the label when the operation is done. -/

namespace Sys2Proof.Machine

/-- What follows a micro-operation in the same micro-step, once the operation is done; before that the sequencer
stays at its label (00_scope.md R17: "hold while c"). -/
def whenDone (done : State → Bool) (f : State → State) : Result → Result :=
  andThen fun s => if done s then f s else s

/-- A guard comparison is done when it has not raised Corruption (60_exceptions.md R221). -/
def guardPassed (s : State) : Bool := !s.halted

/-- A delay is done when its request is acknowledged. -/
def delayDone (s : State) : Bool := !s.dReq

/-- A transmit shuttle is done when its last byte is exchanged. -/
def txDone (s : State) : Bool := !s.txOpen

/-- `W_BR` (R167): the warm-up in PowerUp and Initialized, else the normal write. -/
def branchLabel : TransportState → WLabel
  | .powerUp | .initialized => .wu1
  | _ => .spin

/-- `W_CR2` (R171): `state <- WriteIrq; tx_ptr <- 0; tx_len <- tx_tot`. -/
def recordFrame (s : State) : State :=
  let s := setState .writeIrq s
  { s with txPtr := 0, txLen := s.txTot }

/-- `W_CR4` after the enable (R173): `lvl <- IrqLevel`, and the branch on it. -/
def sampleLevel (s : State) : State :=
  let s := { irqLevel s with lvl := s.irqS }
  goW (if s.lvl then .il1 else .fin) s

/-- The micro-step of W at its label. `W_INIT` and `W_ACC` are carried out at the acceptance of a command, so `wpc`
holds them at no boundary (log 11); their arms do what the acceptance does. `W_REST` has no micro-step. -/
def wStep (s : State) : Result :=
  match s.wpc with
  | .rest => .next s
  | .init => .next (initStep s)
  | .acc => .next (acceptWrite s.env.wrLen s)
  -- R164, R165, R167
  | .ckb => whenDone guardPassed (goW .hdr) (execCheckGuard .tx .ckWb s)
  | .hdr => andThen (goW .br) (execBuildHdr s.wrL s)
  | .br => andThen (goW (branchLabel s.state)) (execUopNone s)
  -- the warm-up, R166, R168
  | .wu1 => andThen (goW .wu2) (execCsAssert s)
  | .wu2 => whenDone delayDone (goW .wu3) (execDelayUs s.cfg.tWarm s)
  | .wu3 => whenDone txDone (goW .wu4) (execShuttleTx 0 4 s)
  | .wu4 => whenDone delayDone (goW .wu5) (execDelayUs s.cfg.tWarm s)
  | .wu5 => whenDone txDone (goW .wu6) (execShuttleTx 4 (s.txTot - 4) s)
  | .wu6 => whenDone guardPassed (goW .wu7) (execCheckGuard .tx .ckWe s)
  | .wu7 => andThen (fun s => goW .fin (setState .idle s)) (execCsDeassert s)
  -- the normal write, R169 to R173
  | .spin => if s.state = .idle then andThen (goW .cr1) (execUopNone s) else .next s
  | .cr1 => andThen (goW .cr2) (execIrqDis s)
  | .cr2 => andThen (fun s => goW .cr3 (recordFrame s)) (execUopNone s)
  | .cr3 => andThen (goW .cr4) (execCsAssert s)
  | .cr4 => andThen sampleLevel (execIrqEn s)
  -- the in-line write, R175 to R177
  | .il1 => whenDone txDone (goW .il2) (execShuttleTx s.txPtr s.txLen s)
  | .il2 => whenDone guardPassed (goW .il3) (execCheckGuard .tx .ckWe s)
  | .il3 => andThen (goW .fin) (execCsDeassert (setState .idle s))
  -- R178
  | .fin => if s.state = .idle then andThen (goW .rest) (execUopNone s) else .next s

end Sys2Proof.Machine
end

