-- ==== Sys2Proof/Machine/IrqPath.lean ====
section
/-! DEFINITION. The interrupt path I: one micro-step for each label of `ipc` (spec/43_transport_read.md R190 to
R214). -/

namespace Sys2Proof.Machine

/-- A receive shuttle is done when its last byte is stored. -/
def rxDone (s : State) : Bool := !s.rxOpen

/-- A delivery is done when the sink has acknowledged. -/
def deliverDone (s : State) : Bool := !s.sValid

/-- The micro-step of I at its label. `I_TAKE` runs the arm that the code of `state` selects (R191); `I_REST` has no
micro-step. -/
def iStep (s : State) : Result :=
  match s.ipc with
  | .rest => .next s
  | .take => exec (decodeIrq s.stateBits) s
  -- reading one frame, R193 to R204
  | .rd1 => whenDone guardPassed (goI .rd2) (execCheckGuard .rx .ckRb s)
  | .rd2 => andThen (goI .rd3) (execCsAssert (setState .readIrq s))
  | .rd3 => whenDone rxDone (goI .rd4) (execShuttleRx 0 10 0 s)
  | .rd4 => andThen (fun s => goI .rd5 (setState .readEot s)) (execUopNone s)
  | .rd5 => andThen (goI .rd6) (execDecodeHdr s)
  | .rd6 => whenDone rxDone (goI .rd7) (execShuttleRx 10 s.rxN 10 s)
  | .rd7 => whenDone guardPassed (goI .rd8) (execCheckGuard .rx .ckRe s)
  | .rd8 => andThen (fun s => goI .rd9 (setState .idle s)) (execCsDeassert s)
  | .rd9 => whenDone deliverDone irqReturn (execDeliver 10 s.rxLen s)
  -- completing an armed write, R207 to R209
  | .wr1 => whenDone txDone (goI .wr2) (execShuttleTx s.txPtr s.txLen s)
  | .wr2 => whenDone guardPassed (goI .wr3) (execCheckGuard .tx .ckWe s)
  | .wr3 => andThen irqReturn (execCsDeassert (setState .idle s))

end Sys2Proof.Machine
end

