-- ==== Sys2Proof/Machine/Sequencer.lean ====
section
/-! DEFINITION. What moves at a step boundary (spec/00_scope.md R17, R18, 60_exceptions.md R229, 70 R250), and what
the environment does there (30_encoding.md R108 to R114). -/

namespace Sys2Proof.Machine

/-- The operations that the environment issues by itself: the host's commands and the script's pseudo-actions. -/
def environmental : Instr → Bool
  | .nocmd | .init | .submitWrite _ | .cmdReserved | .edge | .frameIn _ | .write _ _ => true
  | .onIrqPowerup | .onIrqOther _ | .onIrqIdle | .onIrqWriteirq => false
  | .csAssert | .csDeassert | .xchg _ | .delayUs _ | .irqEn | .irqDis | .irqLvl | .deliver _ _ => false
  | .checkGuard _ _ | .buildHdr _ | .decodeHdr | .shuttleTx _ _ | .shuttleRx _ _ _ | .uopNone => false
  | .wrframe _ _ _ | .rdframeData _ | .rdframeEvent _ | .rdframeOther _ => false

/-- Whether a directly issued operation has finished (log 18). -/
def issueDone (i : Instr) (s : State) : Bool :=
  match i with
  | .xchg _ => !s.xReq
  | .delayUs _ => !s.dReq
  | .deliver _ _ => !s.sValid
  | .shuttleTx _ _ | .wrframe _ _ _ => !s.txOpen
  | .shuttleRx _ _ _ => !s.rxOpen
  | .csAssert | .csDeassert | .irqEn | .irqDis | .irqLvl | .checkGuard _ _ | .buildHdr _ | .decodeHdr => true
  | .uopNone | .rdframeData _ | .rdframeEvent _ | .rdframeOther _ => true
  | .onIrqPowerup | .onIrqOther _ | .onIrqIdle | .onIrqWriteirq => true
  | .nocmd | .init | .submitWrite _ | .cmdReserved | .edge | .frameIn _ | .write _ _ => true

/-- One micro-step of a directly issued micro-operation, frame or interrupt arm: until it has finished it stays on the
uop bus (log 18). None of them moves while halted (R221). -/
def issueUop (i : Instr) (s : State) : Result :=
  if s.halted then .fault .corruption
  else andThen (fun t => if issueDone i t then t else { t with uop := some i }) (exec i { s with uop := none })

/-- One step of an issued operation: the environment's own are carried out whole, halted or not. -/
def issueOp (i : Instr) (s : State) : Result :=
  if environmental i then exec i s else issueUop i s

/-- The command on the command port (R107, R108). -/
def State.portCommand (s : State) : Instr :=
  if s.env.cmdValid then decodeCmd s.env.cmd s.env.wrLen else .nocmd

/-- HDST's own move at a step boundary: nothing while halted (R221, R225); an operation that waits on the uop bus;
the interrupt path, which goes first (R229); the caller path; the acceptance of a command (R108). A move that leaves
the state as it is is a wait (R17, 70_reset_and_hazards.md R261). DESIGN CHOICE (log 32): such a wait in a handshake of W
has step boundaries, and at each of them I may start (R17, R190), although R123 calls the whole handshake a micro-step
and R230 lets I enter only between two. -/
def seqStep (s : State) : Result :=
  if s.halted then .fault .corruption
  else match s.uop with
  | some i => issueUop i s
  | none =>
    if s.ipc ≠ .rest then iStep s
    else if s.irqStart then .next (irqEnter s)
    else if s.wpc ≠ .rest then wStep s
    else exec s.portCommand s

/-- Whether HDST stands still: its own move changes nothing or is none. -/
def State.still (s : State) : Bool :=
  match seqStep s with
  | .next t => decide (t = s)
  | .fault _ | .refused _ => true

/-- The label of W whose micro-step is HDST's next move: `wpc`, or at rest W_INIT or W_ACC where the command on the
port is accepted next (log 11). None where something else moves first: I, its start, an operation on the uop bus, or
nothing because of a halt. -/
def State.nextW (s : State) : Option WLabel :=
  if s.halted || s.uop.isSome || decide (s.ipc ≠ .rest) || s.irqStart then none
  else if s.wpc = .rest then
    if s.env.cmdValid && decide (s.env.cmd = 1) then some .init
    else if s.env.cmdValid && decide (s.env.cmd = 2) then some .acc
    else some .rest
  else some s.wpc

/-- The label of I whose micro-step is HDST's next move. -/
def State.nextI (s : State) : Option ILabel := if s.halted || s.uop.isSome then none else some s.ipc

/-- Whether an item of the script is due: the boundary just before the micro-step it names (30_encoding.md R114; log
8). -/
def State.isDue (s : State) : When → Bool
  | .now => true
  | .atW label => decide (s.nextW = some label)
  | .atI label => decide (s.nextI = some label)
  | .still => s.still

/-- What an action of the environment does to the state; `issue` and `pass` are in `boundaryStep`. -/
def applyAction (a : Action) (s : State) : Result :=
  match a with
  | .reset => .next (hwReset s)
  | .present cmd wrLen => .next (present cmd wrLen s)
  | .host sp i bs => hostStore sp i bs s
  | .line v => .next (lineTo v s)
  | .clk pin => .next (clockEdge (activeLevel s.cfg pin) s)
  | .reply bs => .next (addReplies bs s)
  | .engine d => .next { s with env := { s.env with xAuto := d } }
  | .timer p => .next { s with env := { s.env with timer := p } }
  | .sink p => .next { s with env := { s.env with sink := p } }
  | .timerAck => .next (if s.dReq then { s with env := { s.env with timer := s.env.timer.give } } else s)
  | .ack => .next (if s.sValid then { s with env := { s.env with sink := s.env.sink.give } } else s)
  | .issue _ | .pass => .next s

/-- The step at a boundary at which an action of the script is due; the item is already taken from the script. An
issued word is fetched and decoded here; bytes after the operation are not looked at. -/
def boundaryStep (a : Action) (s : State) : Result :=
  match a with
  | .pass => seqStep s
  | .issue word =>
    match decode s.cfg word with
    | .ok (i, _) => issueOp i s
    | .error e => .refused (.badWord e)
  | a => applyAction a s

/-- The state with the script's first item taken. -/
def dropItem (s : State) : State := { s with env := { s.env with script := s.env.script.tail } }

/-- One step boundary: the environment acts if the script's first item is due, else HDST moves. -/
def stepBoundary (s : State) : Result :=
  match s.env.script with
  | [] => seqStep s
  | item :: _ => if s.isDue item.due then boundaryStep item.act (dropItem s) else seqStep s

/-- The state with an item put in front of the script. -/
def pushItem (item : Item) (s : State) : State :=
  { s with env := { s.env with script := item :: s.env.script } }

/-! ## The end of a run (70_reset_and_hazards.md R260, R261) -/

/-- HDST is at rest (R260), which is when a command is ready to be accepted (R108). -/
def State.atRest (s : State) : Bool := s.cmdReady

/-- HDST's own move changes nothing: it holds (R261), or is at rest with nothing to do. -/
def State.holds (s : State) : Bool :=
  match seqStep s with
  | .next t => decide (t = s)
  | .fault _ | .refused _ => false

/-- The script is exhausted: no line is left, no command waits on the port, nothing waits on the uop bus. -/
def State.exhausted (s : State) : Bool := s.env.script.isEmpty && !s.env.cmdValid && s.uop.isNone

/-- How far a run has come. -/
inductive RunStatus where
  /-- at rest and the script exhausted: the end of a run -/
  | ended
  /-- `halted = 1`: a fault, no end of a run -/
  | halted
  /-- no line of the script is left and HDST holds where it is for ever: no end of a run -/
  | holding
  /-- anything else -/
  | running
  deriving DecidableEq, Repr

/-- Whether a run has ended, is halted, or holds for ever (R260). -/
def State.runStatus (s : State) : RunStatus :=
  if s.halted then .halted
  else if s.atRest && s.exhausted then .ended
  else if s.env.script.isEmpty && s.holds then .holding
  else .running

end Sys2Proof.Machine
end

