-- ==== Sys2Proof/Machine/Step.lean ====
section
/-! DEFINITION. The step, and where a table word is put so that the next step runs it. -/

namespace Sys2Proof.Machine

/-- One step of the machine: one step boundary of spec/00_scope.md R17, at which one agent acts. -/
def step (s : State) : Host.Outcome State Fault Refusal := stepBoundary s

/-- The state whose next step fetches and runs the operation of a table word: the word is issued at this boundary,
before anything else the script holds (log 16, 17). -/
def State.withFetchWord (s : State) (nbits w : Nat) : State :=
  pushItem { due := .now, act := .issue (tableBytes nbits w) } s

end Sys2Proof.Machine
end

