-- ==== Sys2Proof/Safety.lean ====
section
/-! DEFINITION. What statements about runs are made of: the invariant of spec/10_state.md R42 to R44 with the facts it
needs, the environment that acts only through HDST's ports, which operation a step fetches, and how a trace is
read. -/

namespace Sys2Proof.Machine

/-! ## The environment -/

/-- An action that reaches HDST through its ports only (30_encoding.md R108 to R112): everything but the direct issue
of a micro-operation, a frame or an interrupt arm, which is this model's own means (log 18). -/
def Action.throughPorts (c : Config) : Action → Bool
  | .issue word =>
    match decode c word with
    | .ok (i, _) => environmental i
    | .error _ => true
  | _ => true

/-- Nothing is issued directly, now or later in the script. -/
def State.portsOnly (s : State) : Bool :=
  s.uop.isNone && s.env.script.all fun item => item.act.throughPorts s.cfg

/-! ## The invariant -/

/-- The values of `state` with no frame in flight (70_reset_and_hazards.md R260). -/
def quiet : TransportState → Bool
  | .powerUp | .initialized | .idle => true
  | _ => false

/-- `state` at each label of W while I is at rest or about to take an edge (42_transport_write.md). -/
def callerPhase : WLabel → TransportState → Bool
  | .rest, st | .ckb, st | .hdr, st | .br, st => quiet st
  | .wu1, st | .wu2, st | .wu3, st | .wu4, st | .wu5, st | .wu6, st | .wu7, st =>
    decide (st = .powerUp) || decide (st = .initialized)
  | .spin, st | .cr1, st | .cr2, st => decide (st = .idle)
  | .cr3, st | .cr4, st | .il1, st | .il2, st | .il3, st => decide (st = .writeIrq)
  | .fin, st => decide (st = .writeIrq) || decide (st = .idle)
  | .init, _ | .acc, _ => false

/-- The labels of W at which a read can run (R180): W stood there with `state = Idle`. -/
def readableLabel : WLabel → Bool
  | .rest | .ckb | .hdr | .br | .spin | .cr1 | .fin => true
  | _ => false

/-- `state` and the position of W at each label of I (43_transport_read.md R214). -/
def phaseOk (s : State) : Bool :=
  match s.ipc with
  | .rest => callerPhase s.wpc s.state
  | .take => callerPhase s.wpc s.state && !inhibited s.wpc
  | .rd1 | .rd2 | .rd9 => decide (s.state = .idle) && readableLabel s.wpc
  | .rd3 | .rd4 => decide (s.state = .readIrq) && readableLabel s.wpc
  | .rd5 | .rd6 | .rd7 | .rd8 => decide (s.state = .readEot) && readableLabel s.wpc
  | .wr1 | .wr2 | .wr3 => decide (s.state = .writeIrq) && decide (s.wpc = .fin)

/-- The right side of the chip-select rule (10_state.md R43). -/
def csExpected (s : State) : Bool :=
  decide (s.state = .readIrq) || decide (s.state = .readEot) ||
  (decide (s.state = .writeIrq) && decide (s.wpc ≠ .cr3)) ||
  (match s.wpc with
   | .wu2 | .wu3 | .wu4 | .wu5 | .wu6 | .wu7 => true
   | _ => false)

/-- In the critical section the interrupt signal is off and nothing is pending (20_memory.md R81). -/
def sectionOk (s : State) : Bool :=
  match s.wpc with
  | .cr2 | .cr3 | .cr4 => !s.irqEn && !s.irqPend
  | _ => true

/-- A request or an open shuttle stands only at the label whose micro-step made it (40_bus_driver.md R120), and an open
shuttle has bytes left. -/
def requestsOk (s : State) : Bool :=
  (!s.xReq || s.txOpen || s.rxOpen) &&
  (!s.txOpen || decide (s.txRem ≠ 0)) && (!s.rxOpen || decide (s.rxRem ≠ 0)) &&
  (!s.txOpen || decide (s.ipc = .wr1) ||
    ((decide (s.ipc = .rest) || decide (s.ipc = .take)) &&
      (decide (s.wpc = .wu3) || decide (s.wpc = .wu5) || decide (s.wpc = .il1)))) &&
  (!s.rxOpen || decide (s.ipc = .rd3) || decide (s.ipc = .rd6)) &&
  (!s.dReq || ((decide (s.ipc = .rest) || decide (s.ipc = .take)) &&
    (decide (s.wpc = .wu2) || decide (s.wpc = .wu4)))) &&
  (!s.sValid || decide (s.ipc = .rd9))

/-- A buffer is in its canonical form and lists no index above its guard. -/
def bufferOk (m : Memory) (cap : Nat) : Bool := Memory.wf m && m.all fun cell => decide (cell.1 ≤ cap)

/-- The invariant of a machine that is driven through its ports. -/
abbrev Inv (s : State) : Prop :=
  s.cfg.wf = true ∧ s.portsOnly = true ∧ phaseOk s = true ∧ s.cs = csExpected s ∧ sectionOk s = true ∧
  requestsOk s = true ∧ bufferOk s.tx s.cfg.txCap = true ∧ bufferOk s.rx s.cfg.rxCap = true ∧
  s.irqChain.length = s.cfg.syncStages - 2

/-! ## Which operation a step fetches -/

/-- The operation that HDST's own move fetches: the one that waits on the uop bus, the arm of I_TAKE, or the command
on the port; none where a sequencer goes on, or the block is halted. -/
def seqFetched (s : State) : Option Instr :=
  if s.halted then none
  else match s.uop with
  | some i => some i
  | none =>
    if s.ipc = .take then some (decodeIrq s.stateBits)
    else if s.ipc ≠ .rest ∨ s.irqStart = true ∨ s.wpc ≠ .rest then none
    else some s.portCommand

/-- The operation that a step fetches. -/
def State.fetched (s : State) : Option Instr :=
  match s.env.script with
  | [] => seqFetched s
  | item :: _ =>
    if s.isDue item.due then
      match item.act with
      | .issue word => (decode s.cfg word).toOption.map Prod.fst
      | .pass => seqFetched s
      | _ => none
    else seqFetched s

/-- Whether this step is a hardware reset. -/
def State.resets (s : State) : Bool :=
  match s.env.script with
  | [] => false
  | item :: _ => s.isDue item.due && decide (item.act = .reset)

/-- Whether HDST itself moves at this step: no action of the environment is due, or the action is `pass`. -/
def State.selfMove (s : State) : Bool :=
  match s.env.script with
  | [] => true
  | item :: _ => !s.isDue item.due || decide (item.act = .pass)

/-- Whether this step is a store of the host through the buffer port, by HOST or by WRITE. -/
def State.hostStores (s : State) : Bool :=
  match s.env.script with
  | [] => false
  | item :: _ =>
    s.isDue item.due &&
    (match item.act with
     | .host _ _ _ => true
     | .issue word =>
       (match decode s.cfg word with
        | .ok (.write _ _, _) => true
        | _ => false)
     | _ => false)

/-! ## Runs -/

/-- n steps, up to the first stop. -/
def runSteps : Nat → State → Result
  | 0, s => .next s
  | n + 1, s =>
    match step s with
    | .next t => runSteps n t
    | .fault r => .fault r
    | .refused r => .refused r

/-- n micro-steps of one operation, up to the first stop. -/
def repeatExec (i : Instr) : Nat → State → Result
  | 0, s => .next s
  | n + 1, s =>
    match exec i s with
    | .next t => repeatExec i n t
    | .fault r => .fault r
    | .refused r => .refused r

/-! ## Reading a trace -/

/-- The exchanges that sent some bytes and received others, as they stand in a trace, newest first. -/
def exchanges (sent received : List Byte) : List Event := (List.zipWith Event.exchange sent received).reverse

/-- The bytes of a buffer from an index on. -/
def State.bytesFrom (s : State) (sp : Space) (i n : Nat) : List Byte := (List.range n).map fun k => s.bufByte sp (i + k)

/-- The frame that a write of L bytes puts on the wire (30_encoding.md R90, 42_transport_write.md R183): the header,
then what TX holds from index 5 on, the pad byte included. -/
def writeFrame (s : State) (len : Half) : List Byte :=
  writeHeader s.cfg len ++ s.bytesFrom .tx 5 ((writeTotal len).toNat - 5)

/-- The bytes sent with n exchanges of a read transaction from exchange k0 on (40_bus_driver.md R127). -/
def readingBytes (c : Config) (k0 n : Nat) : List Byte := (List.range n).map fun k => rdTxAt c (k0 + k)

/-- The byte engine can answer the next n exchanges. -/
abbrev Env.canGive (e : Env) (n : Nat) : Prop := n ≤ e.replies.length ∨ e.xAuto.isSome = true

/-- The bytes it answers to them: those listed, then the answer to an exchange with no reply listed. -/
def Env.gives (e : Env) (n : Nat) : List Byte :=
  e.replies.take n ++ List.replicate (n - e.replies.length) (e.xAuto.getD 0)

/-- The environment after it has answered n exchanges. -/
def Env.afterGiving (e : Env) (n : Nat) : Env := { e with replies := e.replies.drop n }

/-! ## Words of the rules, in the natural numbers -/

/-- The write pad rule (30_encoding.md R93). -/
def padOf (len : Nat) : Nat := if len % 2 = 0 then 1 else 0

/-- The read pad rule (R102). -/
def readPadOf (c : Config) (len : Nat) : Nat := if (c.hdrConst + len) % 2 = 0 then 1 else 0

/-- Every byte of a buffer reads in t as in s. -/
abbrev sameBytes (sp : Space) (s t : State) : Prop := ∀ j, t.bufByte sp j = s.bufByte sp j

/-- The synchroniser has followed the line: every bit of the chain holds the same level (41_irq_sync.md R143). -/
abbrev settled (s : State) : Prop :=
  s.irqMeta = s.irqS ∧ s.irqPrev = s.irqS ∧ s.irqChain = List.replicate (s.cfg.syncStages - 2) s.irqS

/-- t is s but for what the request line moves: the synchroniser bits and the pending bit. -/
abbrev onlyLine (s t : State) : Prop :=
  t = { s with irqMeta := t.irqMeta, irqChain := t.irqChain, irqS := t.irqS, irqPrev := t.irqPrev,
               irqPend := t.irqPend }

/-- HDST runs by itself: the environment does nothing but answer requests, and nothing is issued directly. -/
abbrev runsAlone (s : State) : Prop := s.env.script = [] ∧ s.uop = none ∧ s.halted = false

/-- Every request output is low and no shuttle is open (70_reset_and_hazards.md R260). -/
abbrev requestsLow (s : State) : Prop :=
  s.xReq = false ∧ s.dReq = false ∧ s.sValid = false ∧ s.txOpen = false ∧ s.rxOpen = false

end Sys2Proof.Machine
end

