-- ==== Sys2Proof/Certificates/Slice0/Obligations.lean ====
section
/-! DEFINITION. The statements about HDST, for the provers. The order is that of the spec: encodings and which
operation a step runs; each operation with its result, its frame and where it completes; the request line; the two
sequencers; the fault; reset; the rules for the whole machine. A statement of the form `exec i s = .next { s with … }`
says at once that the operation completes, what it writes, and that it leaves every other field of the state as it
is. -/

open Sys2Proof Sys2Proof.Machine

/-! ## Encodings and the operation that a step runs -/

/-- Decoding the encoding of a well-formed operation gives it back, with every operand, and leaves the bytes after it.
The container is this model's (log 15); the codes are those of R107, R113 and R21, the headers those of R91 and R95. -/
def Obligations.DecodeOfEncode : Prop :=
  ∀ (c : Config) (i : Instr) (rest : List Byte), i.wf c = true → decode c (encode i ++ rest) = .ok (i, rest)

/-- What decodes is well formed, and is the encoding of what it decodes to: no two words stand for one operation
(container: log 15). -/
def Obligations.EncodeOfDecode : Prop :=
  ∀ (c : Config) (bs rest : List Byte) (i : Instr),
    decode c bs = .ok (i, rest) → i.wf c = true ∧ bs = encode i ++ rest

/-- Words written out by hand in the container of this model decode to the operations they stand for. The container,
its first byte, the order and the bytes of the operands, is the model's choice (log 15), and the words are read under
the parameter set P0 (log 1); the spec's are the codes inside: micro-operations of R113, host commands of R107, state
codes of R21 for the arms of R191, and the bytes of the headers of R91 and R95. -/
def Obligations.WrittenWordsDecode : Prop :=
  decode Config.p0 [0x01] = .ok (.csAssert, []) ∧
  decode Config.p0 [0x03, 0xA5] = .ok (.xchg 0xA5, []) ∧
  decode Config.p0 [0x08, 0x0A, 0x34, 0x12] = .ok (.deliver 10 0x1234, []) ∧
  decode Config.p0 [0x09, 0x01, 0x02] = .ok (.checkGuard .rx .ckRb, []) ∧
  decode Config.p0 [0x0D, 0x8A, 0x80, 0x04, 0x01, 0x00, 0x01, 0x0A, 0x00, 0x00] =
    .ok (.shuttleRx 65546 0x10001 10, []) ∧
  decode Config.p0 [0x11] = .ok (.init, []) ∧
  decode Config.p0 [0x12, 0x05, 0x01] = .ok (.submitWrite 0x0105, []) ∧
  decode Config.p0 [0x23] = .ok (.onIrqWriteirq, []) ∧
  decode Config.p0 [0x21] = .ok (.onIrqOther 1, []) ∧
  decode Config.p0 [0x30, 0x01, 0x00, 0x05, 0x00, 0x00] = .ok (.wrframe 0x01 0x00 0x05, []) ∧
  decode Config.p0 [0x40, 0x02, 0x00, 0x00, 0x00, 0x00, 0x04, 0x00, 0x00, 0x05, 0x00] =
    .ok (.rdframeEvent [0x02, 0x00, 0x00, 0x00, 0x00, 0x04, 0x00, 0x00, 0x05, 0x00], []) ∧
  decode Config.p0 [0x50] = .ok (.edge, []) ∧
  decode Config.p0 [0x52, 0x02, 0x00, 0x02, 0x00, 0x00, 0xB1, 0xB2] = .ok (.write 2 [0xB1, 0xB2], [])

/-- An issued word whose first byte is code 14 or 15 in the space of the micro-operations is refused by name, whatever
follows. That the two codes are unused is R113; the container byte (log 15), the issue of a word (log 17, 18) and the
refusal are the model's choice. -/
def Obligations.UnusedCodesRefused : Prop :=
  ∀ (s : State) (code : Nat) (more : List Byte) (later : List Item), code = 14 ∨ code = 15 →
    s.env.script = { due := .now, act := .issue (opByte 0 code :: more) } :: later →
    step s = .refused (.badWord .unusedUop)

/-- An issued word that is due and decodes is run by that step. A command or a pseudo-action runs whole, halted or
not; a micro-operation, a frame or an interrupt arm runs while the block is not halted and stays on the uop bus until
it is done; and one that waits there is run again by the next step at which the script is silent. The issue itself is
the model's choice (log 17, 18). -/
def Obligations.IssuedWordRuns : Prop :=
  (∀ (s : State) (item : Item) (later : List Item) (word left : List Byte) (i : Instr),
    s.env.script = item :: later → s.isDue item.due = true → item.act = .issue word →
    decode s.cfg word = .ok (i, left) →
    (environmental i = true → step s = exec i (dropItem s)) ∧
    (environmental i = false → s.halted = true → step s = .fault .corruption) ∧
    (environmental i = false → s.halted = false →
      step s = andThen (fun t => if issueDone i t then t else { t with uop := some i })
        (exec i { dropItem s with uop := none }))) ∧
  (∀ (s : State) (i : Instr), s.env.script = [] → s.halted = false → s.uop = some i →
    step s = andThen (fun t => if issueDone i t then t else { t with uop := some i })
      (exec i { s with uop := none }))

/-- R107, R108: at a boundary with `cmd_ready = 1` the step runs the command whose code is on `cmd`, with `wr_len` as
the operand; with `cmd_valid = 0` it runs no command. That this is then a NOCMD is the model's choice (log 28). -/
def Obligations.PortCommandRuns : Prop :=
  ∀ s : State, runsAlone s → s.cmdReady = true →
    (s.env.cmdValid = false → step s = exec .nocmd s) ∧
    (s.env.cmdValid = true → s.env.cmd = 0 → step s = exec .nocmd s) ∧
    (s.env.cmdValid = true → s.env.cmd = 1 → step s = exec .init s) ∧
    (s.env.cmdValid = true → s.env.cmd = 2 → step s = exec (.submitWrite s.env.wrLen) s) ∧
    (s.env.cmdValid = true → s.env.cmd = 3 → step s = exec .cmdReserved s)

/-- R191: at I_TAKE the step runs the arm that the value of `state` selects. That I_TAKE is a step of its own and that
the last arm has one constructor is the model's (log 12, 25). -/
def Obligations.TakeRunsArm : Prop :=
  ∀ s : State, runsAlone s → s.ipc = .take →
    (s.state = .powerUp → step s = exec .onIrqPowerup s) ∧
    (s.state = .idle → step s = exec .onIrqIdle s) ∧
    (s.state = .writeIrq → step s = exec .onIrqWriteirq s) ∧
    (s.state ≠ .powerUp → s.state ≠ .idle → s.state ≠ .writeIrq →
      step s = exec (.onIrqOther (stateCode s.state)) s)

/-! ## The frame codec -/

/-- BUILD_HDR, R91 to R94: the pad is 1 exactly when L is even, the length field L + pad fits 16 bits and is odd, the
total is 5 + L + pad, and TX[0 .. 4] holds the tag, the length field high byte first, and two zero bytes, all as
W_HDR writes them (R165). Nothing else of TX, nothing of RX and no other field changes. In R92 `BuildHdr` is a pure
function that returns its three values; that the operation BUILD_HDR by itself writes them to `pad`, `tx_tot` and
TX[0 .. 4] is the model's choice (log 22). -/
def Obligations.BuildHdrWritesHeader : Prop :=
  ∀ (s : State) (len : Half),
    len.toNat + padOf len.toNat < 65536 ∧ (len.toNat + padOf len.toNat) % 2 = 1 ∧
    ∃ t, exec (.buildHdr len) s = .next t ∧
      t.pad.toNat = padOf len.toNat ∧ t.txTot.toNat = 5 + len.toNat + padOf len.toNat ∧
      t.bufByte .tx 0 = s.cfg.wrTag ∧
      (t.bufByte .tx 1).toNat = (len.toNat + padOf len.toNat) / 256 ∧
      (t.bufByte .tx 2).toNat = (len.toNat + padOf len.toNat) % 256 ∧
      t.bufByte .tx 3 = 0x00 ∧ t.bufByte .tx 4 = 0x00 ∧
      (∀ j, 5 ≤ j → t.bufByte .tx j = s.bufByte .tx j) ∧ sameBytes .rx s t ∧
      t = { s with pad := t.pad, txTot := t.txTot, tx := t.tx }

/-- DECODE_HDR, R96, R97, R99 to R102: the tag in RX[TYPE_OFF], compared on all 8 bits, selects the kind; a data length
is two bytes little-endian, an event length the raw byte minus one; the count still to read is the length plus the read
pad; any other tag is a zero-payload frame; an event length byte of 0 is unspecified and the model faults. Only
`rx_kind`, `rx_len`, `rx_n` are written, as at I_RD5 (R199). In R99 `Decode` is a pure function; that the operation
DECODE_HDR by itself writes its three values to these registers is the model's choice (log 22). -/
def Obligations.DecodeHdrSetsRegisters : Prop :=
  ∀ s : State,
    let h := s.bufByte .rx
    let tag := h s.cfg.typeOff.val
    let raw := h s.cfg.evtLenOff.val
    (tag = s.cfg.tagData → ∃ t, exec .decodeHdr s = .next t ∧ t.rxKind = .data ∧
      t.rxLen.toNat = (h s.cfg.dataLenOff.val).toNat + 256 * (h (s.cfg.dataLenOff.val + 1)).toNat ∧
      t.rxN.toNat = t.rxLen.toNat + readPadOf s.cfg t.rxLen.toNat ∧ sameBytes .tx s t ∧ sameBytes .rx s t ∧
      t = { s with rxKind := t.rxKind, rxLen := t.rxLen, rxN := t.rxN }) ∧
    (tag ≠ s.cfg.tagData → tag = s.cfg.tagEvent → raw ≠ 0 → ∃ t, exec .decodeHdr s = .next t ∧ t.rxKind = .event ∧
      t.rxLen.toNat = raw.toNat - 1 ∧
      t.rxN.toNat = t.rxLen.toNat + readPadOf s.cfg t.rxLen.toNat ∧ sameBytes .tx s t ∧ sameBytes .rx s t ∧
      t = { s with rxKind := t.rxKind, rxLen := t.rxLen, rxN := t.rxN }) ∧
    (tag ≠ s.cfg.tagData → tag = s.cfg.tagEvent → raw = 0 → exec .decodeHdr s = .fault .eventLengthZero) ∧
    (tag ≠ s.cfg.tagData → tag ≠ s.cfg.tagEvent → ∃ t, exec .decodeHdr s = .next t ∧ t.rxKind = .other ∧
      t.rxLen.toNat = 0 ∧ t.rxN.toNat = 0 ∧ sameBytes .tx s t ∧ sameBytes .rx s t ∧
      t = { s with rxKind := t.rxKind, rxLen := t.rxLen, rxN := t.rxN })

/-- RDFRAME.DATA, RDFRAME.EVENT, RDFRAME.OTHER: a well-formed read header of R95 comes to stand in RX[0 .. 9] and is
decoded by R96, R97 and R100 to R102; an event header with length byte 0 faults. That the frame's meaning is to place
and decode its header is the model's choice (log 20). -/
def Obligations.ReadHeadersDecode : Prop :=
  ∀ (s : State) (h : List Byte),
    ((Instr.rdframeData h).wf s.cfg = true → ∃ t, exec (.rdframeData h) s = .next t ∧ t.rxKind = .data ∧
      t.rxLen.toNat = (headerByte h s.cfg.dataLenOff.val).toNat +
        256 * (headerByte h (s.cfg.dataLenOff.val + 1)).toNat ∧
      t.rxN.toNat = t.rxLen.toNat + readPadOf s.cfg t.rxLen.toNat ∧
      (∀ j, t.bufByte .rx j = if j < 10 then headerByte h j else s.bufByte .rx j) ∧ sameBytes .tx s t ∧
      t = { s with rxKind := t.rxKind, rxLen := t.rxLen, rxN := t.rxN, rx := t.rx }) ∧
    ((Instr.rdframeEvent h).wf s.cfg = true → headerByte h s.cfg.evtLenOff.val ≠ 0 →
      ∃ t, exec (.rdframeEvent h) s = .next t ∧ t.rxKind = .event ∧
      t.rxLen.toNat = (headerByte h s.cfg.evtLenOff.val).toNat - 1 ∧
      t.rxN.toNat = t.rxLen.toNat + readPadOf s.cfg t.rxLen.toNat ∧
      (∀ j, t.bufByte .rx j = if j < 10 then headerByte h j else s.bufByte .rx j) ∧ sameBytes .tx s t ∧
      t = { s with rxKind := t.rxKind, rxLen := t.rxLen, rxN := t.rxN, rx := t.rx }) ∧
    ((Instr.rdframeEvent h).wf s.cfg = true → headerByte h s.cfg.evtLenOff.val = 0 →
      exec (.rdframeEvent h) s = .fault .eventLengthZero) ∧
    ((Instr.rdframeOther h).wf s.cfg = true → ∃ t, exec (.rdframeOther h) s = .next t ∧ t.rxKind = .other ∧
      t.rxLen.toNat = 0 ∧ t.rxN.toNat = 0 ∧
      (∀ j, t.bufByte .rx j = if j < 10 then headerByte h j else s.bufByte .rx j) ∧ sameBytes .tx s t ∧
      t = { s with rxKind := t.rxKind, rxLen := t.rxLen, rxN := t.rxN, rx := t.rx })

/-- WRFRAME: with the shuttle at rest and a byte engine that answers, the micro-steps of the operation send the frame
that the header announces, header first, then TX from index 5 on, inside one chip-select assertion; the header then
stands in TX[0 .. 4] and nothing else of the buffers has changed. The transaction of R90 and the header of R91 are the
spec's, the operation that performs them is the model's choice (log 19), and so is the number of its micro-steps
(log 9, 10). -/
def Obligations.WrframeSendsFrame : Prop :=
  ∀ (s : State) (tag hi lo : Byte) (n : Nat),
    n = 5 + 256 * hi.toNat + lo.toNat → n ≤ s.cfg.txCap → s.txOpen = false → s.xReq = false → s.cs = false →
    s.env.canGive n →
    (∃ u, exec (.wrframe tag hi lo) s = .next u ∧ u.cs = true ∧ u.txOpen = true ∧ u.txRem.toNat = n - 1 ∧
      u.trace = [.exchange tag ((s.env.gives n).headD 0), .csUp] ++ s.trace) ∧
    ∃ t, repeatExec (.wrframe tag hi lo) n s = .next t ∧ t.cs = false ∧ t.txOpen = false ∧
      t.trace = [.csDown] ++ exchanges ([tag, hi, lo, 0x00, 0x00] ++ s.bytesFrom .tx 5 (n - 5)) (s.env.gives n) ++
        [.csUp] ++ s.trace ∧
      (∀ j, t.bufByte .tx j = if j < 5 then headerByte [tag, hi, lo, 0x00, 0x00] j else s.bufByte .tx j) ∧
      sameBytes .rx s t ∧
      t = { s with tx := t.tx, txRem := 0, xOut := t.xOut, xIn := t.xIn, trace := t.trace,
                   env := s.env.afterGiving n }

/-! ## The byte-shuttle driver -/

/-- CS_ASSERT and CS_DEASSERT, micro-operations 1 and 2, R121, R122: `cs` is set or cleared and the pin follows its
polarity (R110); when `cs` already has the value nothing changes at all; nothing else ever changes. In every place
where the sequencers release chip-select, the same micro-step makes `state` Idle. -/
def Obligations.ChipSelectOperations : Prop :=
  decodeUop 1 [] = .ok (.csAssert, []) ∧ decodeUop 2 [] = .ok (.csDeassert, []) ∧
  (∀ s : State,
    exec .csAssert s = .next { s with cs := true, trace := if s.cs then s.trace else .csUp :: s.trace } ∧
    exec .csDeassert s = .next { s with cs := false, trace := if s.cs then .csDown :: s.trace else s.trace } ∧
    (s.cs = true → exec .csAssert s = .next s) ∧ (s.cs = false → exec .csDeassert s = .next s) ∧
    (s.cs = true → s.csPin = !s.cfg.csActiveLow) ∧ (s.cs = false → s.csPin = s.cfg.csActiveLow)) ∧
  (∀ s t : State, Inv s → step s = .next t → s.resets = false → s.cs = true → t.cs = false → t.state = .idle)

/-- XCHG, R123: with an answer the byte sent and the byte received are exchanged once and the request falls; without
one the request stands with its byte, however often the micro-step is tried. A request that already stands keeps its
byte. Every byte may be the answer. `cs` is not looked at. That an answer may come in the micro-step of the request,
and where it stands, is the model's choice (log 9, 22). -/
def Obligations.ExchangeHandshake : Prop :=
  ∀ (s : State) (b out : Byte), out = (if s.xReq then s.xOut else b) →
    (∀ r rest, s.env.replies = r :: rest → exec (.xchg b) s = .next
      { s with xReq := false, xOut := out, xIn := r, env := { s.env with replies := rest },
               trace := .exchange out r :: s.trace }) ∧
    (∀ r, s.env.replies = [] → s.env.xAuto = some r → exec (.xchg b) s = .next
      { s with xReq := false, xOut := out, xIn := r, trace := .exchange out r :: s.trace }) ∧
    (s.env.replies = [] → s.env.xAuto = none →
      exec (.xchg b) s = .next { s with xReq := true, xOut := out } ∧
      ∀ b', exec (.xchg b') { s with xReq := true, xOut := out } = .next { s with xReq := true, xOut := out })

/-- DELAY_US, R124: the request carries n, the event D(n) is recorded once, and nothing else of HDST changes; with the
acknowledgement the request falls, without it the request stands. When the event is recorded, and that an
acknowledgement may come at once, is the model's choice (log 9, 21). -/
def Obligations.DelayHandshake : Prop :=
  ∀ (s : State) (n : Half),
    (s.dReq = false → s.env.timer.acks = true → exec (.delayUs n) s = .next
      { s with dUs := n, trace := .delay n :: s.trace, env := { s.env with timer := s.env.timer.taken } }) ∧
    (s.dReq = false → s.env.timer = .silent → exec (.delayUs n) s = .next
      { s with dReq := true, dUs := n, trace := .delay n :: s.trace }) ∧
    (s.dReq = true → s.env.timer.acks = true → exec (.delayUs n) s = .next
      { s with dReq := false, env := { s.env with timer := s.env.timer.taken } }) ∧
    (s.dReq = true → s.env.timer = .silent → exec (.delayUs n) s = .next s)

/-- DELIVER, R205: the delivery carries pointer and length until the sink acknowledges; then it falls. At I_RD9 the
delivery is that of `10` and `rx_len`, and I returns to rest exactly with the acknowledgement (R204). When the event is
recorded, and that an acknowledgement may come at once, is the model's choice (log 9, 21). -/
def Obligations.DeliverHandshake : Prop :=
  ∀ (s : State) (ptr : Nat) (len : Half),
    (s.sValid = false → s.env.sink.acks = true → exec (.deliver ptr len) s = .next
      { s with sPtr := ptr, sLen := len, trace := .deliver ptr len :: s.trace,
               env := { s.env with sink := s.env.sink.taken } }) ∧
    (s.sValid = false → s.env.sink = .silent → exec (.deliver ptr len) s = .next
      { s with sValid := true, sPtr := ptr, sLen := len, trace := .deliver ptr len :: s.trace }) ∧
    (s.sValid = true → s.env.sink.acks = true → exec (.deliver ptr len) s = .next
      { s with sValid := false, env := { s.env with sink := s.env.sink.taken } }) ∧
    (s.sValid = true → s.env.sink = .silent → exec (.deliver ptr len) s = .next s) ∧
    (runsAlone s → s.ipc = .rd9 → s.sValid = true →
      step s = if s.env.sink.acks then .next { s with sValid := false, ipc := .rest,
                                                      env := { s.env with sink := s.env.sink.taken } }
        else .next s) ∧
    (runsAlone s → s.ipc = .rd9 → s.sValid = false → s.env.sink = .silent →
      step s = .next { s with sValid := true, sPtr := 10, sLen := s.rxLen,
                              trace := .deliver 10 s.rxLen :: s.trace })

/-- SHUTTLE_TX, one micro-step (R126, R128, R68): with `rem` bytes left of n, the byte at base + (n - rem) is exchanged,
the answer is kept nowhere but on the port, and `rem` falls by one; a load above the guard sends some byte; without an
answer the request stands and the micro-step can only repeat; with no byte left nothing is exchanged. TX and RX are
never written. The split into micro-steps is the model's (log 10). -/
def Obligations.ShuttleTxMicroStep : Prop :=
  ∀ (s : State) (base : Nat) (n rem : Count) (i : Nat), rem = (if s.txOpen then s.txRem else n) →
    i = base + (n.toNat - rem.toNat) →
    (rem = 0 → exec (.shuttleTx base n) s = .next { s with txOpen := false, txRem := 0 }) ∧
    (∀ r rest, rem ≠ 0 → s.xReq = false → s.env.answer? = some (r, rest) →
      ∃ (out : Byte) (free : Nat), (i ≤ s.cfg.txCap → out = s.bufByte .tx i ∧ free = s.free) ∧
        exec (.shuttleTx base n) s = .next
          { s with txOpen := decide (rem ≠ 1), txRem := rem - 1, xOut := out, xIn := r, free := free,
                   env := { s.env with replies := rest }, trace := .exchange out r :: s.trace }) ∧
    (rem ≠ 0 → s.xReq = false → s.env.answer? = none →
      ∃ (out : Byte) (free : Nat), (i ≤ s.cfg.txCap → out = s.bufByte .tx i ∧ free = s.free) ∧
        exec (.shuttleTx base n) s = .next
          { s with txOpen := true, txRem := rem, xReq := true, xOut := out, free := free }) ∧
    (∀ r rest, s.txOpen = true → rem ≠ 0 → s.xReq = true → s.env.answer? = some (r, rest) →
      exec (.shuttleTx base n) s = .next
        { s with txOpen := decide (rem ≠ 1), txRem := rem - 1, xReq := false, xIn := r,
                 env := { s.env with replies := rest }, trace := .exchange s.xOut r :: s.trace }) ∧
    (s.txOpen = true → rem ≠ 0 → s.xReq = true → s.env.answer? = none → exec (.shuttleTx base n) s = .next s)

/-- SHUTTLE_TX, R126 and R71: n micro-steps of the operation send TX[base .. base + n - 1] in increasing index, one
exchange each, and discard every byte received; `tx_rem` ends at 0; no buffer byte changes. That it takes exactly n
micro-steps, the load of the cursor in the first and each answer in the micro-step of its request, is the model's
choice (log 9, 10). -/
def Obligations.ShuttleTxSendsRange : Prop :=
  ∀ (s : State) (base : Nat) (n : Count),
    n ≠ 0 → s.txOpen = false → s.xReq = false → base + n.toNat ≤ s.cfg.txCap + 1 → s.env.canGive n.toNat →
    ∃ t, repeatExec (.shuttleTx base n) n.toNat s = .next t ∧
      t.trace = exchanges (s.bytesFrom .tx base n.toNat) (s.env.gives n.toNat) ++ s.trace ∧
      t = { s with txRem := 0, xOut := t.xOut, xIn := t.xIn, trace := t.trace,
                   env := s.env.afterGiving n.toNat }

/-- SHUTTLE_RX, one micro-step (R127, R128, R67): RD_TX of the position in the transaction is sent, the answer is stored
at base + (n - rem) and `rem` falls by one; the store at the guard is a store like any other; a store above the guard
leaves the buffer, and the model faults; without an answer the request stands and the micro-step can only repeat; a late
answer ends the request that stands, whose byte is the one sent. TX is never written. The split into
micro-steps is the model's (log 10). -/
def Obligations.ShuttleRxMicroStep : Prop :=
  ∀ (s : State) (base : Nat) (n k0 rem : Count) (k : Nat), rem = (if s.rxOpen then s.rxRem else n) →
    k = n.toNat - rem.toNat →
    (rem = 0 → exec (.shuttleRx base n k0) s = .next { s with rxOpen := false, rxRem := 0 }) ∧
    (∀ r rest, rem ≠ 0 → s.xReq = false → s.env.answer? = some (r, rest) → base + k ≤ s.cfg.rxCap →
      ∃ t, exec (.shuttleRx base n k0) s = .next t ∧
        (∀ j, t.bufByte .rx j = if j = base + k then r else s.bufByte .rx j) ∧ sameBytes .tx s t ∧
        t.xOut = rdTxAt s.cfg (k0.toNat + k) ∧
        t = { s with rxOpen := decide (rem ≠ 1), rxRem := rem - 1, xOut := t.xOut, xIn := r, rx := t.rx,
                     env := { s.env with replies := rest }, trace := .exchange t.xOut r :: s.trace }) ∧
    (∀ r rest, rem ≠ 0 → s.env.answer? = some (r, rest) → s.cfg.rxCap < base + k →
      exec (.shuttleRx base n k0) s = .fault .rxOverrun) ∧
    (rem ≠ 0 → s.xReq = false → s.env.answer? = none →
      exec (.shuttleRx base n k0) s = .next
        { s with rxOpen := true, rxRem := rem, xReq := true, xOut := rdTxAt s.cfg (k0.toNat + k) }) ∧
    (∀ r rest, s.rxOpen = true → rem ≠ 0 → s.xReq = true → s.env.answer? = some (r, rest) →
      base + k ≤ s.cfg.rxCap →
      ∃ t, exec (.shuttleRx base n k0) s = .next t ∧
        (∀ j, t.bufByte .rx j = if j = base + k then r else s.bufByte .rx j) ∧ sameBytes .tx s t ∧
        t = { s with rxOpen := decide (rem ≠ 1), rxRem := rem - 1, xReq := false, xIn := r, rx := t.rx,
                     env := { s.env with replies := rest }, trace := .exchange s.xOut r :: s.trace }) ∧
    (s.rxOpen = true → rem ≠ 0 → s.xReq = true → s.env.answer? = none →
      exec (.shuttleRx base n k0) s = .next s)

/-- SHUTTLE_RX, R127 and R71: n micro-steps of the operation send RD_TX(k0 ..) and store the answers at
RX[base .. base + n - 1] in the order received; nothing else of the buffers changes. A count that reaches above the
guard ends in the model's fault instead (R67, log 5). That it takes exactly n micro-steps, the load of the cursor in
the first and each answer in the micro-step of its request, is the model's choice (log 9, 10). -/
def Obligations.ShuttleRxStoresRange : Prop :=
  ∀ (s : State) (base : Nat) (n k0 : Count),
    n ≠ 0 → s.rxOpen = false → s.xReq = false → s.env.canGive n.toNat →
    (base + n.toNat ≤ s.cfg.rxCap + 1 →
      ∃ t, repeatExec (.shuttleRx base n k0) n.toNat s = .next t ∧
        t.trace = exchanges (readingBytes s.cfg k0.toNat n.toNat) (s.env.gives n.toNat) ++ s.trace ∧
        t.bytesFrom .rx base n.toNat = s.env.gives n.toNat ∧
        (∀ j, j < base ∨ base + n.toNat ≤ j → t.bufByte .rx j = s.bufByte .rx j) ∧ sameBytes .tx s t ∧
        t = { s with rxRem := 0, rx := t.rx, xOut := t.xOut, xIn := t.xIn, trace := t.trace,
                     env := s.env.afterGiving n.toNat }) ∧
    (s.cfg.rxCap + 1 < base + n.toNat → repeatExec (.shuttleRx base n k0) n.toNat s = .fault .rxOverrun)

/-! ## The request line -/

/-- IRQ_EN and IRQ_DIS, R146, R147, R145: `irq_en` is set or cleared and nothing else of HDST changes; in particular
`irq_pend` does not, whatever the level is. -/
def Obligations.InterruptEnableDisable : Prop :=
  ∀ s : State,
    exec .irqEn s = .next { s with irqEn := true, trace := .enUp :: s.trace } ∧
    exec .irqDis s = .next { s with irqEn := false, trace := .enDown :: s.trace }

/-- IRQ_LVL, R148, gives `irq_s` as the event LVL=v and has no side effect; code 0 (R113) does nothing. The result's
form is the model's choice (log 22). -/
def Obligations.LevelReadAndNoOperation : Prop :=
  ∀ s : State, exec .irqLvl s = .next { s with trace := .level s.irqS :: s.trace } ∧ exec .uopNone s = .next s

/-- R141, R142, R144: at a clock edge the pin's logical level enters the chain, every bit moves on by one, and
`irq_pend` is set exactly when the new sample is 1 after a 0 and the signal is enabled; a pending edge stays pending.
No other field changes. That a clock edge is an action of the script and uses up its
line is the model's choice (log 8, 24). -/
def Obligations.SynchroniserClock : Prop :=
  ∀ (s : State) (pin : Bool) (later : List Item),
    s.env.script = { due := .now, act := .clk pin } :: later →
    ∃ t, step s = .next t ∧
      t.irqMeta = (if s.cfg.irqActiveHigh then pin else !pin) ∧ t.irqPrev = s.irqS ∧
      (s.irqChain = [] → t.irqS = s.irqMeta ∧ t.irqChain = []) ∧
      (∀ bits last, s.irqChain = bits ++ [last] → t.irqS = last ∧ t.irqChain = s.irqMeta :: bits) ∧
      (t.irqPend = true ↔ s.irqPend = true ∨ (s.irqEn = true ∧ t.irqS = true ∧ t.irqPrev = false)) ∧
      onlyLine { s with env := { s.env with script := later } } t

/-- R143: where the synchroniser has followed the line, driving a level makes it the synchronised level; a change from
0 to 1 is an active edge, recorded in `irq_pend` exactly when the signal is enabled; the level it already has changes
nothing. This is the abstract form of the line, for the circuit of R141 and R142; how many clock edges the script's
LINE takes is the model's choice (log 24). -/
def Obligations.LineAbstractForm : Prop :=
  ∀ (s : State) (v : Bool) (later : List Item), s.cfg.wf = true → settled s →
    s.env.script = { due := .now, act := .line v } :: later →
    step s = .next
      { s with irqMeta := v, irqChain := List.replicate (s.cfg.syncStages - 2) v, irqS := v, irqPrev := v,
               irqPend := s.irqPend || (s.irqEn && v && !s.irqS), env := { s.env with script := later } } ∧
    (v = s.irqS → step s = .next { s with env := { s.env with script := later } })

/-- EDGE and FRAME_IN, R115: an active edge, whatever the level was, recorded exactly when the signal is enabled;
FRAME_IN first lists the replies. They move nothing but the request line and the replies, also before the synchroniser
has settled. One step for the whole expansion, and the place of the new replies behind those left over, is the model's
choice (log 24, 31, 37). -/
def Obligations.EdgeAndFrameIn : Prop :=
  ∀ (s : State) (bytes : List Byte),
    (∃ t, exec .edge s = .next t ∧ onlyLine s t) ∧
    (∃ t, exec (.frameIn bytes) s = .next t ∧
      onlyLine { s with env := { s.env with replies := s.env.replies ++ bytes } } t) ∧
    (s.cfg.wf = true → settled s →
      exec .edge s = .next
        { s with irqMeta := true, irqChain := List.replicate (s.cfg.syncStages - 2) true, irqS := true,
                 irqPrev := true, irqPend := s.irqPend || s.irqEn } ∧
      exec (.frameIn bytes) s = .next
        { s with irqMeta := true, irqChain := List.replicate (s.cfg.syncStages - 2) true, irqS := true,
                 irqPrev := true, irqPend := s.irqPend || s.irqEn,
                 env := { s.env with replies := s.env.replies ++ bytes } })

/-! ## The host's ports -/

/-- WRITE, R115: the payload is stored from TX[5] on and SUBMIT_WRITE is put to the port, where it is accepted or
waits (R108); while halted no byte is stored (R221). A payload that reaches above the guard is refused by name, as the
port has no such index (R109; log 23). One step for the whole expansion, and what the port holds, is the model's
choice (log 28, 31). -/
def Obligations.WriteStoresAndSubmits : Prop :=
  ∀ (s : State) (len : Half) (payload : List Byte),
    (5 + payload.length ≤ s.cfg.txCap + 1 →
      ∃ t, exec (.write len payload) s = .next t ∧
        (s.halted = false → ∀ j, t.bufByte .tx j =
          if 5 ≤ j ∧ j < 5 + payload.length then payload.getD (j - 5) 0 else s.bufByte .tx j) ∧
        (s.halted = true → sameBytes .tx s t) ∧
        sameBytes .rx s t ∧
        (s.cmdReady = true → t = { s with tx := t.tx, wrL := len, wpc := .ckb,
                                          env := { s.env with cmdValid := false } }) ∧
        (s.cmdReady = false → t = { s with tx := t.tx, env := { s.env with cmdValid := true, cmd := 2,
                                                                            wrLen := len } })) ∧
    (s.cfg.txCap + 1 < 5 + payload.length → exec (.write len payload) s = .refused .bufferIndex)

/-- R107, R108, R163: `cmd_ready` is 1 exactly at rest with nothing pending and no halt; then NOCMD and the reserved
command have no effect and SUBMIT_WRITE latches its operand and starts W at W_CKB with `busy = 1`. That the acceptance
is W_ACC and that the command is then gone from the port is the model's reading (log 11, 28). -/
def Obligations.CommandsAccepted : Prop :=
  ∀ (s : State) (len : Half),
    (s.cmdReady = true ↔ s.wpc = .rest ∧ s.ipc = .rest ∧ s.irqPend = false ∧ s.halted = false) ∧
    exec .nocmd s = .next { s with env := { s.env with cmdValid := false } } ∧
    (s.cmdReady = true →
      exec .cmdReserved s = .next { s with env := { s.env with cmdValid := false } } ∧
      ∃ t, exec (.submitWrite len) s = .next t ∧ t.busy = true ∧
        t = { s with wrL := len, wpc := .ckb, env := { s.env with cmdValid := false } })

/-- R108, R265: a command that finds `cmd_ready = 0` has no effect on HDST; it stays on the port. What the port holds
is the environment's (log 28). -/
def Obligations.CommandsHeld : Prop :=
  ∀ (s : State) (len : Half), s.cmdReady = false →
    exec .init s = .next { s with env := { s.env with cmdValid := true, cmd := 1 } } ∧
    exec (.submitWrite len) s = .next { s with env := { s.env with cmdValid := true, cmd := 2, wrLen := len } } ∧
    exec .cmdReserved s = .next { s with env := { s.env with cmdValid := true, cmd := 3 } }

/-- INIT, R161: where it is accepted, both guards hold SENTINEL, `state` is PowerUp, the signal is enabled and W is at
rest; no other byte, flag or register changes, `cs` and `irq_pend` included. Without `cmd_ready`, so also while
halted, it is not accepted: nothing of HDST changes. -/
def Obligations.InitEffect : Prop :=
  ∀ s : State,
    (s.cmdReady = true → ∃ t, exec .init s = .next t ∧
      (∀ j, t.bufByte .tx j = if j = s.cfg.txCap then s.cfg.sentinel else s.bufByte .tx j) ∧
      (∀ j, t.bufByte .rx j = if j = s.cfg.rxCap then s.cfg.sentinel else s.bufByte .rx j) ∧
      t = { s with tx := t.tx, rx := t.rx, state := .powerUp, irqEn := true, wpc := .rest, trace := t.trace,
                   env := t.env }) ∧
    (s.halted = true → s.cmdReady = false) ∧
    (s.cmdReady = false → ∃ t, exec .init s = .next t ∧ t = { s with env := t.env })

/-- R109: a store through the buffer port lands on the named bytes and nowhere else, guards included, and is read back;
while halted it changes nothing (R221); an index the port does not have is refused by name (log 23). -/
def Obligations.HostBufferPort : Prop :=
  ∀ (s : State) (sp : Space) (i : Nat) (bytes : List Byte) (later : List Item),
    s.env.script = { due := .now, act := .host sp i bytes } :: later →
    (i + bytes.length ≤ s.cap sp + 1 → s.halted = true →
      step s = .next { s with env := { s.env with script := later } }) ∧
    (i + bytes.length ≤ s.cap sp + 1 → s.halted = false → ∃ t, step s = .next t ∧
      (∀ j, i ≤ j → j < i + bytes.length → t.bufRdata sp j = bytes[j - i]?) ∧
      (∀ j, j < i ∨ i + bytes.length ≤ j → t.bufRdata sp j = s.bufRdata sp j) ∧
      (∀ sp', sp' ≠ sp → sameBytes sp' s t) ∧
      t = { s with tx := t.tx, rx := t.rx, env := { s.env with script := later } }) ∧
    (s.cap sp + 1 < i + bytes.length → step s = .refused .bufferIndex)

/-! ## The guard comparison and the halt -/

/-- CHECK_GUARD, micro-operation 9, R222, R221: on all 8 bits; a match changes nothing, a mismatch sets `halted` and
nothing else of HDST (the site is only the name in the trace). -/
def Obligations.CheckGuardCompares : Prop :=
  ∀ (s : State) (sp : Space) (site : Site),
    (∀ bs i rest, decodeUop 9 bs = .ok (i, rest) → ∃ sp' site', i = .checkGuard sp' site') ∧
    s.cap .tx = s.cfg.txCap ∧ s.cap .rx = s.cfg.rxCap ∧
    (s.bufByte sp (s.cap sp) = s.cfg.sentinel → exec (.checkGuard sp site) s = .next s) ∧
    (s.bufByte sp (s.cap sp) ≠ s.cfg.sentinel →
      exec (.checkGuard sp site) s = .next { s with halted := true, trace := .halt site :: s.trace })

/-- R223: the six micro-steps that compare, with the buffer and the site of each. A mismatch halts there: the label,
`state`, `cs`, every register and every buffer byte stay as they are. A match moves the label on and changes nothing
else. -/
def Obligations.GuardSites : Prop :=
  ∀ s : State, runsAlone s →
    (s.wpc = .ckb → s.ipc = .rest → s.irqPend = false →
      (s.guardByte .tx ≠ s.cfg.sentinel → step s = .next { s with halted := true, trace := .halt .ckWb :: s.trace }) ∧
      (s.guardByte .tx = s.cfg.sentinel → step s = .next { s with wpc := .hdr })) ∧
    (s.wpc = .wu6 → s.ipc = .rest → s.irqPend = false →
      (s.guardByte .tx ≠ s.cfg.sentinel → step s = .next { s with halted := true, trace := .halt .ckWe :: s.trace }) ∧
      (s.guardByte .tx = s.cfg.sentinel → step s = .next { s with wpc := .wu7 })) ∧
    (s.wpc = .il2 → s.ipc = .rest →
      (s.guardByte .tx ≠ s.cfg.sentinel → step s = .next { s with halted := true, trace := .halt .ckWe :: s.trace }) ∧
      (s.guardByte .tx = s.cfg.sentinel → step s = .next { s with wpc := .il3 })) ∧
    (s.ipc = .wr2 →
      (s.guardByte .tx ≠ s.cfg.sentinel → step s = .next { s with halted := true, trace := .halt .ckWe :: s.trace }) ∧
      (s.guardByte .tx = s.cfg.sentinel → step s = .next { s with ipc := .wr3 })) ∧
    (s.ipc = .rd1 →
      (s.guardByte .rx ≠ s.cfg.sentinel → step s = .next { s with halted := true, trace := .halt .ckRb :: s.trace }) ∧
      (s.guardByte .rx = s.cfg.sentinel → step s = .next { s with ipc := .rd2 })) ∧
    (s.ipc = .rd7 →
      (s.guardByte .rx ≠ s.cfg.sentinel → step s = .next { s with halted := true, trace := .halt .ckRe :: s.trace }) ∧
      (s.guardByte .rx = s.cfg.sentinel → step s = .next { s with ipc := .rd8 }))

/-- R221: while `halted = 1` no step but a hardware reset changes any register, flag or buffer byte of HDST, except
`irq_pend` and the synchroniser bits; the host's stores and commands change nothing either. -/
def Obligations.HaltFreezes : Prop :=
  ∀ s t : State, s.halted = true → step s = .next t → s.resets = false →
    onlyLine { s with env := t.env } t ∧ sameBytes .tx s t ∧ sameBytes .rx s t

/-- R225, R221: a halted block moves nothing by itself, and the model makes that a fault; no command is ready. What the
fault is called is the model's (log 7). -/
def Obligations.HaltedBlockFaults : Prop :=
  ∀ s : State, s.halted = true → s.selfMove = true →
    step s = .fault .corruption ∧ s.cmdReady = false ∧ s.faultCorrupt = true

/-! ## The caller path -/

/-- R164, R165, R167: after the guard comparison W builds the header of the latched operand in place and then goes to
the warm-up exactly when `state` is PowerUp or Initialized, else to the normal write. -/
def Obligations.WriteBeginning : Prop :=
  ∀ s : State, runsAlone s → s.ipc = .rest → s.irqPend = false →
    (s.wpc = .ckb → s.guardByte .tx = s.cfg.sentinel → step s = .next { s with wpc := .hdr }) ∧
    (s.wpc = .hdr → ∃ t, exec (.buildHdr s.wrL) s = .next t ∧ step s = .next { t with wpc := .br }) ∧
    (s.wpc = .br → s.state = .powerUp ∨ s.state = .initialized → step s = .next { s with wpc := .wu1 }) ∧
    (s.wpc = .br → s.state ≠ .powerUp → s.state ≠ .initialized → step s = .next { s with wpc := .spin })

/-- The contract of SUBMIT_WRITE for a write in PowerUp or Initialized (R162, R166, R168, R182): from a command on the
port, a good guard, a legal length, a timer and a byte engine that answer, and a silent request line, the block sends
the frame of 5 + L + pad bytes inside one chip-select assertion, 4 bytes and then the rest, with two delays of T_WARM,
and ends at rest in Idle. The number of steps and the port afterwards are the model's (log 8 to 11, 28). -/
def Obligations.WarmUpWrite : Prop :=
  ∀ (s : State) (len : Half) (n : Nat), n = 5 + len.toNat + padOf len.toNat →
    s.cfg.wf = true → runsAlone s → requestsLow s → s.cmdReady = true → s.state = .powerUp ∨ s.state = .initialized →
    s.cs = false → s.env.cmdValid = true → s.env.cmd = 2 → s.env.wrLen = len →
    s.guardByte .tx = s.cfg.sentinel → n ≤ s.cfg.txCap → s.env.timer = .auto → s.env.canGive n →
    ∃ t, runSteps (n + 10) s = .next t ∧ t.state = .idle ∧ t.cs = false ∧ t.busy = false ∧
      t.trace = [.st .idle, .csDown] ++
        exchanges ((writeFrame s len).drop 4) ((s.env.gives n).drop 4) ++ [.delay s.cfg.tWarm] ++
        exchanges ((writeFrame s len).take 4) ((s.env.gives n).take 4) ++ [.delay s.cfg.tWarm, .csUp] ++ s.trace ∧
      (writeFrame s len).length = n ∧
      (∀ j, t.bufByte .tx j = if j < 5 then headerByte (writeHeader s.cfg len) j else s.bufByte .tx j) ∧
      sameBytes .rx s t ∧
      t = { s with state := .idle, wrL := len, pad := t.pad, txTot := t.txTot, txRem := 0, tx := t.tx,
                   xOut := t.xOut, xIn := t.xIn, dUs := s.cfg.tWarm, trace := t.trace,
                   env := { s.env.afterGiving n with cmdValid := false } }

/-- R170 to R173, the exclusive sequence: the signal is disabled, `state` becomes WriteIrq and the frame is recorded,
chip-select is asserted, and in one micro-step the signal is enabled and the level sampled, which selects the in-line
write or the final wait. -/
def Obligations.ExclusiveSequence : Prop :=
  ∀ s : State, runsAlone s → s.ipc = .rest → s.irqPend = false →
    (s.wpc = .cr1 → step s = .next { s with irqEn := false, wpc := .cr2, trace := .enDown :: s.trace }) ∧
    (s.wpc = .cr2 → step s = .next { s with state := .writeIrq, txPtr := 0, txLen := s.txTot, wpc := .cr3,
                                            trace := .st .writeIrq :: s.trace }) ∧
    (s.wpc = .cr3 → step s = .next { s with cs := true, wpc := .cr4,
                                            trace := if s.cs then s.trace else .csUp :: s.trace }) ∧
    (s.wpc = .cr4 → s.irqS = true → step s = .next { s with irqEn := true, lvl := true, wpc := .il1,
                                                            trace := .level true :: .enUp :: s.trace }) ∧
    (s.wpc = .cr4 → s.irqS = false → step s = .next { s with irqEn := true, lvl := false, wpc := .fin,
                                                             trace := .level false :: .enUp :: s.trace })

/-- The in-line write (R162, R169 to R173, R175 to R178): a write in Idle that finds the line asserted is armed and
carried out in the same call, and ends at rest in Idle with the whole frame sent in one chip-select assertion. The
number of steps and the port afterwards are the model's (log 8 to 11, 28). -/
def Obligations.InlineWrite : Prop :=
  ∀ (s : State) (len : Half) (n : Nat), n = 5 + len.toNat + padOf len.toNat →
    s.cfg.wf = true → runsAlone s → requestsLow s → s.cmdReady = true → s.state = .idle → s.cs = false →
    s.env.cmdValid = true → s.env.cmd = 2 → s.env.wrLen = len → s.guardByte .tx = s.cfg.sentinel →
    n ≤ s.cfg.txCap → s.irqS = true → s.env.canGive n →
    ∃ t, runSteps (n + 12) s = .next t ∧ t.cs = false ∧ t.busy = false ∧
      t.trace = [.csDown, .st .idle] ++ exchanges (writeFrame s len) (s.env.gives n) ++
        [.level true, .enUp, .csUp, .st .writeIrq, .enDown] ++ s.trace ∧
      (∀ j, t.bufByte .tx j = if j < 5 then headerByte (writeHeader s.cfg len) j else s.bufByte .tx j) ∧
      sameBytes .rx s t ∧
      t = { s with irqEn := true, lvl := true, wrL := len, pad := t.pad, txTot := t.txTot, txPtr := 0,
                   txLen := t.txTot, txRem := 0, tx := t.tx, xOut := t.xOut, xIn := t.xIn, trace := t.trace,
                   env := { s.env.afterGiving n with cmdValid := false } }

/-- The armed write (R163 to R165, R167, R169 to R174): a write in Idle that finds the line at 0 is armed with
chip-select asserted, the signal enabled and no byte sent, and then holds: with no edge and no action of the environment
every further step changes nothing. The number of steps and the acceptance from the port are the model's (log 8, 11,
28). -/
def Obligations.ArmedWriteWaits : Prop :=
  ∀ (s : State) (len : Half),
    s.cfg.wf = true → runsAlone s → s.cmdReady = true → s.state = .idle → s.cs = false →
    s.env.cmdValid = true → s.env.cmd = 2 → s.env.wrLen = len → s.guardByte .tx = s.cfg.sentinel →
    s.irqS = false →
    ∃ t, runSteps 9 s = .next t ∧ t.state = .writeIrq ∧ t.cs = true ∧ t.irqEn = true ∧ t.busy = true ∧
      t.trace = [.level false, .enUp, .csUp, .st .writeIrq, .enDown] ++ s.trace ∧
      (∀ j, t.bufByte .tx j = if j < 5 then headerByte (writeHeader s.cfg len) j else s.bufByte .tx j) ∧
      t = { s with state := .writeIrq, cs := true, irqEn := true, lvl := false, wpc := .fin, wrL := len, pad := t.pad,
                   txTot := t.txTot, txPtr := 0, txLen := t.txTot, tx := t.tx, trace := t.trace, env := t.env } ∧
      ∀ k, runSteps k t = .next t

/-- The completion of an armed write by the interrupt path (R190, R191, R207 to R209, R178): a recorded edge takes I
through the whole frame and back, `state` becomes Idle with the release of chip-select, and W completes the command.
The number of steps is the model's (log 8 to 12). -/
def Obligations.ArmedWriteCompletes : Prop :=
  ∀ s : State,
    runsAlone s → requestsLow s → s.wpc = .fin → s.ipc = .rest → s.irqPend = true → s.state = .writeIrq →
    s.cs = true → s.guardByte .tx = s.cfg.sentinel → s.txLen ≠ 0 →
    s.txPtr + s.txLen.toNat ≤ s.cfg.txCap + 1 → s.env.canGive s.txLen.toNat →
    ∃ t, runSteps (s.txLen.toNat + 5) s = .next t ∧ t.busy = false ∧
      t.trace = [.csDown, .st .idle] ++
        exchanges (s.bytesFrom .tx s.txPtr s.txLen.toNat) (s.env.gives s.txLen.toNat) ++ s.trace ∧
      t = { s with state := .idle, cs := false, irqPend := false, wpc := .rest, txRem := 0, xOut := t.xOut,
                   xIn := t.xIn, trace := t.trace, env := s.env.afterGiving s.txLen.toNat }

/-- R169, R178, R261: W holds at W_SPIN and at W_FIN while `state` is not Idle, and then moves on by one label. -/
def Obligations.CallerHoldsForIdle : Prop :=
  ∀ s : State, runsAlone s → s.ipc = .rest → s.irqPend = false →
    (s.wpc = .spin → s.state ≠ .idle → step s = .next s) ∧
    (s.wpc = .spin → s.state = .idle → step s = .next { s with wpc := .cr1 }) ∧
    (s.wpc = .fin → s.state ≠ .idle → step s = .next s) ∧
    (s.wpc = .fin → s.state = .idle → step s = .next { s with wpc := .rest })

/-- R261, R110, R123, R124: at every label whose micro-step is a handshake or a shuttle, a request that stands without
its acknowledgement keeps the sequencer where it is and the step changes nothing at all; with the acknowledgement the
request falls and the sequencer moves on, after a shuttle's last byte (`rem` = 1) to its next label. At the labels of
the warm-up nothing is pending; an edge would start I first (InterruptStarts; log 32). The delivery of I_RD9 is in
DeliverHandshake. The micro-step for each byte is the model's (log 9, 10). -/
def Obligations.HandshakesHoldTheirLabel : Prop :=
  ∀ s : State, runsAlone s →
    (∀ here next : WLabel, s.ipc = .rest → s.irqPend = false →
      (here = .wu2 ∧ next = .wu3) ∨ (here = .wu4 ∧ next = .wu5) → s.wpc = here → s.dReq = true →
      (s.env.timer = .silent → step s = .next s) ∧
      (s.env.timer.acks = true → step s = .next
        { s with dReq := false, wpc := next, env := { s.env with timer := s.env.timer.taken } })) ∧
    (∀ here next : WLabel, s.ipc = .rest → s.irqPend = false ∨ here = .il1 →
      (here = .wu3 ∧ next = .wu4) ∨ (here = .wu5 ∧ next = .wu6) ∨ (here = .il1 ∧ next = .il2) → s.wpc = here →
      s.txOpen = true → s.txRem ≠ 0 → s.xReq = true →
      (s.env.answer? = none → step s = .next s) ∧
      (∀ r rest, s.env.answer? = some (r, rest) → step s = .next
        { s with txOpen := decide (s.txRem ≠ 1), txRem := s.txRem - 1, xReq := false, xIn := r,
                 wpc := if s.txRem = 1 then next else here, env := { s.env with replies := rest },
                 trace := .exchange s.xOut r :: s.trace })) ∧
    (s.ipc = .wr1 → s.txOpen = true → s.txRem ≠ 0 → s.xReq = true →
      (s.env.answer? = none → step s = .next s) ∧
      (∀ r rest, s.env.answer? = some (r, rest) → step s = .next
        { s with txOpen := decide (s.txRem ≠ 1), txRem := s.txRem - 1, xReq := false, xIn := r,
                 ipc := if s.txRem = 1 then .wr2 else .wr1, env := { s.env with replies := rest },
                 trace := .exchange s.xOut r :: s.trace })) ∧
    (∀ (here next : ILabel) (i : Nat),
      (here = .rd3 ∧ next = .rd4 ∧ i = 10 - s.rxRem.toNat) ∨
      (here = .rd6 ∧ next = .rd7 ∧ i = 10 + (s.rxN.toNat - s.rxRem.toNat)) → s.ipc = here →
      s.rxOpen = true → s.rxRem ≠ 0 → s.xReq = true →
      (s.env.answer? = none → step s = .next s) ∧
      (∀ r rest, s.env.answer? = some (r, rest) → i ≤ s.cfg.rxCap → ∃ t, step s = .next t ∧
        (∀ j, t.bufByte .rx j = if j = i then r else s.bufByte .rx j) ∧
        t = { s with rxOpen := decide (s.rxRem ≠ 1), rxRem := s.rxRem - 1, xReq := false, xIn := r, rx := t.rx,
                     ipc := if s.rxRem = 1 then next else here, env := { s.env with replies := rest },
                     trace := .exchange s.xOut r :: s.trace }))

/-! ## The interrupt path -/

/-- R190, R229, R230: a recorded edge starts I before W moves and before a command is accepted, and the entry changes
`ipc` and nothing else. That the start is a step of its own is the model's reading (log 12). That it also happens at
W_WU2 to W_WU5 while a request of W stands, before the acknowledgement, is the model's choice between R17 with R190 and
R123 with R230 (log 32); R230 by itself does not say so. -/
def Obligations.InterruptStarts : Prop :=
  ∀ s : State, runsAlone s → s.irqPend = true → s.ipc = .rest →
    s.wpc ≠ .cr2 → s.wpc ≠ .cr3 → s.wpc ≠ .cr4 → s.wpc ≠ .il1 → s.wpc ≠ .il2 → s.wpc ≠ .il3 →
    step s = .next { s with ipc := .take }

/-- R179: at the six labels of the exclusive sequence and the in-line write the interrupt path does not start,
whatever is pending: the step is W's own micro-step and the edge is kept. For the in-line write, where an edge can be
pending, that micro-step is written out: a byte of the frame is sent (W_IL1), the guard is compared (W_IL2), chip-select
is released with `state` Idle (W_IL3). -/
def Obligations.InterruptInhibited : Prop :=
  ∀ s : State, runsAlone s → s.ipc = .rest →
    (s.wpc = .cr2 ∨ s.wpc = .cr3 ∨ s.wpc = .cr4 ∨ s.wpc = .il1 ∨ s.wpc = .il2 ∨ s.wpc = .il3 →
      step s = wStep s ∧ ∃ t, step s = .next t ∧ t.ipc = .rest ∧ t.irqPend = s.irqPend) ∧
    (∀ r rest, s.wpc = .il1 → s.txOpen = true → s.txRem ≠ 0 → s.xReq = false → s.env.answer? = some (r, rest) →
      ∃ t, step s = .next t ∧ t.txRem = s.txRem - 1 ∧ t.irqPend = s.irqPend ∧
        t.trace = .exchange t.xOut r :: s.trace ∧ t.wpc = if s.txRem = 1 then .il2 else .il1) ∧
    (s.wpc = .il2 → s.guardByte .tx = s.cfg.sentinel → step s = .next { s with wpc := .il3 }) ∧
    (s.wpc = .il3 → step s = .next
      { s with state := .idle, cs := false, wpc := .fin,
               trace := if s.cs then .csDown :: .st .idle :: s.trace else .st .idle :: s.trace })

/-- The four arms of I_TAKE (R191, R192, R206): the edge is consumed; in PowerUp `state` becomes Initialized; in Idle
the read starts; in WriteIrq the write is completed; otherwise nothing else happens. -/
def Obligations.InterruptArms : Prop :=
  ∀ (s : State) (code : BitVec 4),
    exec .onIrqPowerup s = .next { s with irqPend := false, state := .initialized, ipc := .rest,
                                          trace := .st .initialized :: s.trace } ∧
    exec .onIrqIdle s = .next { s with irqPend := false, ipc := .rd1 } ∧
    exec .onIrqWriteirq s = .next { s with irqPend := false, ipc := .wr1 } ∧
    exec (.onIrqOther code) s = .next { s with irqPend := false, ipc := .rest }

/-- R160, R190, R230, R231: while I is active W takes no step: its label and its registers stay, and no command is
accepted. A delay that W has raised stays on its port; a shuttle that W has begun keeps its cursor, and the exchange it
has raised its byte, except where I itself runs a shuttle (the cursor `tx_rem` only at I_WR1). That I can become active
while a request of W stands is the model's choice (log 32). -/
def Obligations.CallerFrozenWhileReading : Prop :=
  ∀ s t : State, runsAlone s → s.ipc ≠ .rest → step s = .next t →
    t.wpc = s.wpc ∧ t.wrL = s.wrL ∧ t.pad = s.pad ∧ t.txTot = s.txTot ∧ t.txPtr = s.txPtr ∧ t.txLen = s.txLen ∧
    t.lvl = s.lvl ∧ t.irqEn = s.irqEn ∧ t.env.cmdValid = s.env.cmdValid ∧ t.env.cmd = s.env.cmd ∧
    t.env.wrLen = s.env.wrLen ∧ sameBytes .tx s t ∧ t.dReq = s.dReq ∧ t.dUs = s.dUs ∧
    (s.ipc ≠ .wr1 → t.txRem = s.txRem ∧ t.txOpen = s.txOpen) ∧
    (s.ipc ≠ .wr1 → s.ipc ≠ .rd3 → s.ipc ≠ .rd6 → t.xReq = s.xReq ∧ t.xOut = s.xOut ∧ t.xIn = s.xIn)

/-- Reading one frame (R190 to R205, R212, R214): from an edge taken in Idle, with a good guard, a header that decodes,
a legal length, a byte engine and a sink that answer, I reads the header and then exactly n more bytes in one
chip-select assertion, and delivers the payload length without the pad once, after release and Idle. Everything
received stands in RX in order, the rest of RX and all of TX are unchanged, and W is where it was. The number of steps
is the model's (log 8 to 12). -/
def Obligations.ReadOneFrame : Prop :=
  ∀ (s : State) (kind : FrameKind) (len : Half) (n : Count),
    runsAlone s → requestsLow s → s.irqPend = true → s.ipc = .rest → inhibited s.wpc = false → s.state = .idle →
    s.cs = false → s.guardByte .rx = s.cfg.sentinel → s.env.canGive (10 + n.toNat) → s.env.sink = .auto →
    decodeHeader s.cfg (s.env.gives 10) = some (kind, len, n) → 10 + n.toNat ≤ s.cfg.rxCap →
    ∃ t, runSteps (19 + max n.toNat 1) s = .next t ∧
      t.trace = [.deliver 10 len, .st .idle, .csDown] ++
        exchanges (readingBytes s.cfg 10 n.toNat) ((s.env.gives (10 + n.toNat)).drop 10) ++ [.st .readEot] ++
        exchanges (readingBytes s.cfg 0 10) (s.env.gives 10) ++ [.csUp, .st .readIrq] ++ s.trace ∧
      t.bytesFrom .rx 0 (10 + n.toNat) = s.env.gives (10 + n.toNat) ∧
      (∀ j, 10 + n.toNat ≤ j → t.bufByte .rx j = s.bufByte .rx j) ∧ sameBytes .tx s t ∧
      t = { s with irqPend := false, rxKind := kind, rxLen := len, rxN := n, rxRem := 0, rx := t.rx, xOut := t.xOut,
                   xIn := t.xIn, sPtr := 10, sLen := len, trace := t.trace,
                   env := s.env.afterGiving (10 + n.toNat) }

/-- A frame whose last byte lands on the receive guard (R67, R201, R223): when that byte is not SENTINEL the comparison
at the end of the read halts the block with chip-select asserted, `state = ReadEot` and nothing delivered. The number
of steps is the model's (log 8 to 12). -/
def Obligations.OverrunIsCaught : Prop :=
  ∀ (s : State) (kind : FrameKind) (len : Half) (n : Count),
    runsAlone s → requestsLow s → s.irqPend = true → s.ipc = .rest → inhibited s.wpc = false → s.state = .idle →
    s.cs = false → s.guardByte .rx = s.cfg.sentinel → s.cfg.wf = true → s.env.canGive (10 + n.toNat) →
    decodeHeader s.cfg (s.env.gives 10) = some (kind, len, n) → 10 + n.toNat = s.cfg.rxCap + 1 →
    (s.env.gives (10 + n.toNat)).getLast? ≠ some s.cfg.sentinel →
    ∃ t, runSteps (17 + n.toNat) s = .next t ∧ t.halted = true ∧ t.cs = true ∧ t.state = .readEot ∧ t.ipc = .rd7 ∧
      t.sValid = false ∧ t.guardByte .rx ≠ s.cfg.sentinel ∧
      t.trace = [.halt .ckRe] ++ exchanges (readingBytes s.cfg 10 n.toNat) ((s.env.gives (10 + n.toNat)).drop 10) ++
        [.st .readEot] ++ exchanges (readingBytes s.cfg 0 10) (s.env.gives 10) ++ [.csUp, .st .readIrq] ++ s.trace

/-! ## Reset -/

/-- R41, R251: right after hardware reset, for every parameter set: the values the spec gives, no buffer byte written,
every request low, `cmd_ready = 1`, `busy = 0`. That "no byte written" is the empty list is the model's form (log 3), and
that the parameters stand in the state and `State.reset` carries the set P0 is the model's choice (log 1). -/
def Obligations.ResetValues : Prop :=
  ∀ c : Config,
    let s := State.initial c
    s.state = .powerUp ∧ s.wpc = .rest ∧ s.ipc = .rest ∧ s.cs = false ∧ s.irqEn = false ∧ s.irqPend = false ∧
    s.irqMeta = false ∧ s.irqS = false ∧ s.irqPrev = false ∧ s.irqChain = List.replicate (c.syncStages - 2) false ∧
    s.halted = false ∧ s.busy = false ∧ s.cmdReady = true ∧ s.xReq = false ∧ s.dReq = false ∧ s.sValid = false ∧
    s.tx = [] ∧ s.rx = [] ∧ s.cfg = c ∧ State.reset = State.initial Config.p0

/-- R250, R251: the reset input brings every register and flag to the value of R41 from any state, halted or in the
middle of a transaction, and lowers every request. The model's own, and not the spec's, are four things: the datapath
registers, which R251 says are not cleared, keep what they held (log 13); the buffers hold no defined byte afterwards,
as the form of "unspecified" (log 3, 13); the parameters stay (log 1, 13); and the trace stays and records no event of
the reset (log 33). -/
def Obligations.ResetInput : Prop :=
  ∀ (s : State) (later : List Item), s.env.script = { due := .now, act := .reset } :: later →
    ∃ t, step s = .next t ∧
      t.state = .powerUp ∧ t.wpc = .rest ∧ t.ipc = .rest ∧ t.cs = false ∧ t.irqEn = false ∧ t.irqPend = false ∧
      t.irqMeta = false ∧ t.irqS = false ∧ t.irqPrev = false ∧
      t.irqChain = List.replicate (s.cfg.syncStages - 2) false ∧ t.halted = false ∧ t.xReq = false ∧
      t.dReq = false ∧ t.sValid = false ∧ t.cmdReady = true ∧ t.busy = false ∧ t.tx = [] ∧ t.rx = [] ∧
      t.txPtr = s.txPtr ∧ t.txLen = s.txLen ∧ t.txRem = s.txRem ∧ t.wrL = s.wrL ∧ t.pad = s.pad ∧
      t.txTot = s.txTot ∧ t.rxKind = s.rxKind ∧ t.rxLen = s.rxLen ∧ t.rxN = s.rxN ∧ t.rxRem = s.rxRem ∧
      t.lvl = s.lvl ∧ t.cfg = s.cfg ∧ t.trace = s.trace

/-! ## The whole machine -/

/-- The invariant holds after reset, under every legal parameter set and every environment that acts through the ports
of R108 to R112 only (log 18). -/
def Obligations.InvariantAtReset : Prop :=
  ∀ (c : Config) (e : Env), c.wf = true → { State.initial c with env := e }.portsOnly = true →
    Inv { State.initial c with env := e }

/-- Every step keeps the invariant, from every state that meets it, whatever the environment does through the ports:
the chip-select rule of R43, the six live values of R44, `state` at each label of W and I (R214), nothing pending in
the exclusive sequence (R81), requests and open shuttles only where they belong (R120), buffers in canonical form and
within their bounds. Direct issue, the model's own means, is outside it (log 18). -/
def Obligations.InvariantKept : Prop := ∀ s t : State, Inv s → step s = .next t → Inv t

/-- R43: after any number of steps from reset, under every legal parameter set and every environment that acts through
the ports, and while not halted, `cs = 1` exactly when `state` is ReadIrq or ReadEot, or WriteIrq with W not at W_CR3,
or W is at W_WU2 to W_WU7. -/
def Obligations.ChipSelectRule : Prop :=
  ∀ (c : Config) (e : Env) (k : Nat) (t : State), c.wf = true → { State.initial c with env := e }.portsOnly = true →
    runSteps k { State.initial c with env := e } = .next t → t.halted = false →
    (t.cs = true ↔
      (t.state = .readIrq ∨ t.state = .readEot) ∨ (t.state = .writeIrq ∧ t.wpc ≠ .cr3) ∨
      (t.wpc = .wu2 ∨ t.wpc = .wu3 ∨ t.wpc = .wu4 ∨ t.wpc = .wu5 ∨ t.wpc = .wu6 ∨ t.wpc = .wu7))

/-- R44: no step writes WriteFirstPortion, WriteEot or ReadFirstPortion, so from reset `state` is always one of the six
other values. If `state` held one of the three, I_TAKE would take the "others" arm and W would hold at W_SPIN. -/
def Obligations.LiveStates : Prop :=
  (∀ (c : Config) (e : Env) (k : Nat) (t : State), { State.initial c with env := e }.portsOnly = true →
    c.wf = true → runSteps k { State.initial c with env := e } = .next t →
    t.state = .powerUp ∨ t.state = .initialized ∨ t.state = .idle ∨ t.state = .writeIrq ∨ t.state = .readIrq ∨
    t.state = .readEot) ∧
  (∀ s t : State, step s = .next t →
    t.state = .writeFirstPortion ∨ t.state = .writeEot ∨ t.state = .readFirstPortion → t.state = s.state) ∧
  (∀ s : State, runsAlone s → s.state = .writeFirstPortion ∨ s.state = .writeEot ∨ s.state = .readFirstPortion →
    (s.ipc = .take → step s = .next { s with irqPend := false, ipc := .rest }) ∧
    (s.wpc = .spin → s.ipc = .rest → s.irqPend = false → ∀ k, runSteps k s = .next s))

/-- R78, R90, R123: in a machine driven through its ports a step makes at most one exchange, and only inside a
transaction: chip-select is asserted before and after it. -/
def Obligations.ExchangesInsideTransactions : Prop :=
  ∀ (s t : State) (news : List Event) (out inp : Byte), Inv s → step s = .next t → t.trace = news ++ s.trace →
    .exchange out inp ∈ news → news = [.exchange out inp] ∧ s.cs = true ∧ t.cs = true

/-- R182: outside reset only INIT makes `state` PowerUp and only the edge in PowerUp makes it Initialized, and the
warm-up ends in Idle, so it runs once per INIT. -/
def Obligations.PowerUpWriters : Prop :=
  ∀ s t : State, Inv s → step s = .next t → s.resets = false →
    (t.state = .powerUp → s.state ≠ .powerUp → s.fetched = some .init ∧ s.cmdReady = true) ∧
    (t.state = .initialized → s.state ≠ .initialized → s.state = .powerUp ∧ s.fetched = some .onIrqPowerup) ∧
    (s.wpc = .wu7 → t.wpc ≠ .wu7 → t.wpc = .fin ∧ t.state = .idle)

/-- R228, R144: outside reset `irq_en` is set by INIT and W_CR4 only and cleared by W_CR1 only; `irq_pend` is cleared by
I_TAKE only and set by the environment's edge only, and only while enabled. -/
def Obligations.InterruptBitWriters : Prop :=
  ∀ s t : State, Inv s → step s = .next t → s.resets = false →
    (s.irqEn = false → t.irqEn = true →
      s.fetched = some .init ∨ (s.wpc = .cr4 ∧ s.ipc = .rest ∧ s.selfMove = true)) ∧
    (s.irqEn = true → t.irqEn = false → s.wpc = .cr1 ∧ s.ipc = .rest ∧ s.selfMove = true) ∧
    (s.irqPend = true → t.irqPend = false → s.ipc = .take ∧ s.selfMove = true) ∧
    (s.irqPend = false → t.irqPend = true → s.irqEn = true ∧ s.selfMove = false)

/-- R63, R64: outside reset and the host's own stores, a byte of TX changes only in the header at W_HDR and at the guard
by INIT, a byte of RX only in the shuttles of I_RD3 and I_RD6 and at the guard by INIT. -/
def Obligations.BufferWriters : Prop :=
  ∀ (s t : State) (j : Nat), Inv s → step s = .next t → s.resets = false → s.hostStores = false →
    (t.bufByte .tx j ≠ s.bufByte .tx j →
      (j < 5 ∧ s.wpc = .hdr ∧ s.ipc = .rest ∧ s.selfMove = true) ∨ (j = s.cfg.txCap ∧ s.fetched = some .init)) ∧
    (t.bufByte .rx j ≠ s.bufByte .rx j →
      (j < 10 ∧ s.ipc = .rd3 ∧ s.selfMove = true) ∨ (10 ≤ j ∧ s.ipc = .rd6 ∧ s.selfMove = true) ∨
      (j = s.cfg.rxCap ∧ s.fetched = some .init))

/-- R20, R114: no step changes a parameter, and no step takes back an event of the trace. That both stand in the state
is the model's choice (log 1, 21). -/
def Obligations.ParametersAndTraceKept : Prop :=
  ∀ s t : State, step s = .next t → t.cfg = s.cfg ∧ ∃ news, t.trace = news ++ s.trace

/-- R260: at rest `busy = 0`, `cs = 0`, every request output is 0 and `state` is PowerUp, Initialized or Idle. A run
has ended exactly when HDST is at rest and the script is exhausted, and then nothing moves any more; a halted block and
one that holds for ever (no line left, not at rest, the step changes nothing, for ever) are no end of a run. That a
command still on the port, or an operation still on the uop bus, is a line not yet carried out, is the model's reading
of "exhausted" (log 8). -/
def Obligations.RestState : Prop :=
  (∀ s : State, Inv s → s.wpc = .rest → s.ipc = .rest → s.irqPend = false → s.halted = false →
    s.busy = false ∧ s.cs = false ∧ s.xReq = false ∧ s.dReq = false ∧ s.sValid = false ∧
    (s.state = .powerUp ∨ s.state = .initialized ∨ s.state = .idle)) ∧
  (∀ s : State,
    (s.runStatus = .ended ↔ (s.wpc = .rest ∧ s.ipc = .rest ∧ s.irqPend = false ∧ s.halted = false) ∧
      (s.env.script = [] ∧ s.env.cmdValid = false ∧ s.uop = none)) ∧
    (s.runStatus = .halted ↔ s.halted = true) ∧
    (s.runStatus = .holding → s.runStatus ≠ .ended ∧ ∀ k, runSteps k s = .next s) ∧
    (s.runStatus = .ended → ∀ k, runSteps k s = .next s) ∧
    (runsAlone s → s.runStatus ≠ .ended → step s = .next s → s.runStatus = .holding))

/-- Equal contents are equal data: two buffers in canonical form that read alike at every index are the same list; a
write keeps the form, is read back, and leaves every other index alone (R15, R60; the form is the model's, log 3). -/
def Obligations.CanonicalBuffers : Prop :=
  (∀ a b : Memory, Memory.wf a = true → Memory.wf b = true → (∀ i, a.read? i = b.read? i) → a = b) ∧
  (∀ (m : Memory) (i : Nat) (v w : Byte), Memory.wf m = true →
    Memory.wf (m.write i v) = true ∧ (m.write i v).read? i = some v ∧
    (∀ j, j ≠ i → (m.write i v).read? j = m.read? j) ∧ (m.write i v).write i w = m.write i w)
end

