-- ==== Sys2Proof/Laws/Decode.lean ====
section
/-! SUPPORT. The operand readers and writers of the decoder undo each other, in both directions. -/

namespace Sys2Proof

open Machine

/-! ## Bytes of a word -/

theorem hi_append_lo (v : Half) : hiByte v ++ loByte v = v := by
  apply BitVec.eq_of_getElem_eq
  intro i hi
  simp only [hiByte, loByte, BitVec.getElem_append, BitVec.getElem_extractLsb']
  split
  · simp [BitVec.getLsbD_eq_getElem hi]
  · rw [show 8 + (i - 8) = i by omega, BitVec.getLsbD_eq_getElem hi]

@[simp] theorem hiByte_append (a b : Byte) : hiByte (a ++ b) = a := by
  apply BitVec.eq_of_getElem_eq
  intro i hi
  simp only [hiByte, BitVec.getElem_extractLsb', BitVec.getLsbD_append]
  rw [if_neg (by omega), show 8 + i - 8 = i by omega, BitVec.getLsbD_eq_getElem hi]

@[simp] theorem loByte_append (a b : Byte) : loByte (a ++ b) = b := by
  apply BitVec.eq_of_getElem_eq
  intro i hi
  simp only [loByte, BitVec.getElem_extractLsb', BitVec.getLsbD_append]
  rw [if_pos (by omega), show 0 + i = i by omega, BitVec.getLsbD_eq_getElem hi]

theorem toNat_append_bytes (a b : Byte) : (a ++ b : BitVec (8 + 8)).toNat = 256 * a.toNat + b.toNat := by
  rw [BitVec.toNat_append, ← Nat.shiftLeft_add_eq_or_of_lt b.isLt, Nat.shiftLeft_eq]
  omega

theorem toNat_bytes (v : Half) : 256 * (hiByte v).toNat + (loByte v).toNat = v.toNat := by
  rw [← toNat_append_bytes, hi_append_lo]

theorem toNat_append_three (a b c : Byte) :
    (a ++ (b ++ c) : BitVec (8 + (8 + 8))).toNat = 65536 * a.toNat + (256 * b.toNat + c.toNat) := by
  rw [BitVec.toNat_append, ← Nat.shiftLeft_add_eq_or_of_lt (b ++ c).isLt, Nat.shiftLeft_eq, toNat_append_bytes]
  omega

/-! ## Operands: reading what was written -/

theorem take16_put16 (v : Half) (rest : List Byte) : take16 (put16 v ++ rest) = .ok (v, rest) := by
  simp [put16, take16, hi_append_lo]

theorem put17_value (v : Count) :
    ((v.extractLsb' 16 1).zeroExtend 8 ++ (v.extractLsb' 8 8 ++ v.extractLsb' 0 8) :
      BitVec (8 + (8 + 8))).setWidth 17 = v := by
  apply BitVec.eq_of_getElem_eq
  intro i hi
  simp only [BitVec.getElem_setWidth, BitVec.getLsbD_append, BitVec.getLsbD_setWidth, BitVec.getLsbD_extractLsb']
  by_cases h1 : i < 8
  · rw [if_pos (by omega), if_pos (by omega)]
    simp [h1, BitVec.getLsbD_eq_getElem hi]
  · by_cases h2 : i < 16
    · rw [if_pos (by omega), if_neg (by omega), show 8 + (i - 8) = i by omega]
      simp [show i - 8 < 8 by omega, BitVec.getLsbD_eq_getElem hi]
    · obtain rfl : i = 16 := by omega
      rw [if_neg (by omega)]
      simp

theorem put17_top (v : Count) : ((v.extractLsb' 16 1).zeroExtend 8).toNat < 2 := by
  have := (v.extractLsb' 16 1).isLt
  rw [BitVec.toNat_setWidth]
  exact Nat.lt_of_le_of_lt (Nat.mod_le _ _) (by simpa using this)

theorem take17_put17 (v : Count) (rest : List Byte) : take17 (put17 v ++ rest) = .ok (v, rest) := by
  simp only [put17, List.cons_append, List.nil_append, take17, if_pos (put17_top v), put17_value]

/-- With room for all its bytes a buffer index is read back. -/
theorem takeIndex_putIndexIn (bound n : Nat) (rest : List Byte) (h : n ≤ bound) :
    takeIndex (putIndexIn bound n ++ rest) = .ok (n, rest) := by
  induction bound generalizing n with
  | zero =>
    obtain rfl : n = 0 := by omega
    simp [putIndexIn, takeIndex]
  | succ bound ih =>
    unfold putIndexIn
    split
    · next hn => simp [takeIndex, Nat.mod_eq_of_lt (show n < 256 by omega), hn]
    · next hn =>
      have hb : (BitVec.ofNat 8 (128 + n % 128)).toNat = 128 + n % 128 := by
        rw [BitVec.toNat_ofNat, Nat.mod_eq_of_lt (by omega)]
      obtain ⟨q, hq⟩ : ∃ q, n / 128 = q + 1 := ⟨n / 128 - 1, by omega⟩
      have ih := ih (n / 128) (by omega)
      rw [hq] at ih
      simp only [List.cons_append, takeIndex, hb, hq, ih, if_neg (show ¬128 + n % 128 < 128 by omega)]
      rw [show 128 + n % 128 - 128 + 128 * (q + 1) = n by omega]

theorem takeIndex_putIndex (n : Nat) (rest : List Byte) : takeIndex (putIndex n ++ rest) = .ok (n, rest) :=
  takeIndex_putIndexIn n n rest (Nat.le_refl n)

theorem takeBytes_append (bs rest : List Byte) : takeBytes bs.length (bs ++ rest) = .ok (bs, rest) := by
  induction bs with
  | nil => rfl
  | cons b bs ih => simp [takeBytes, ih]

theorem takeCounted_putCounted (bs rest : List Byte) (h : bs.length < 2 ^ 24) :
    takeCounted (putCounted bs ++ rest) = .ok (bs, rest) := by
  have hn : bs.length % 256 + 256 * (bs.length / 256 % 256) + 65536 * (bs.length / 65536 % 256) = bs.length := by
    omega
  simp [putCounted, takeCounted, take24, hn, takeBytes_append]

/-! ## Operands: what was read was written so -/

theorem take8_eq {bs rest : List Byte} {b : Byte} (h : take8 bs = .ok (b, rest)) : bs = b :: rest := by
  cases bs with
  | nil => simp [take8] at h
  | cons c cs => simp_all [take8]

theorem take16_eq {bs rest : List Byte} {v : Half} (h : take16 bs = .ok (v, rest)) : bs = put16 v ++ rest := by
  match bs with
  | [] | [_] => simp [take16] at h
  | lo :: hi :: cs =>
    simp only [take16, Except.ok.injEq, Prod.mk.injEq] at h
    obtain ⟨rfl, rfl⟩ := h
    simp [put16]

theorem take17_eq {bs rest : List Byte} {v : Count} (h : take17 bs = .ok (v, rest)) : bs = put17 v ++ rest := by
  match bs with
  | [] | [_] | [_, _] => simp [take17] at h
  | lo :: mid :: top :: cs =>
    simp only [take17] at h
    split at h
    · next ht =>
      simp only [Except.ok.injEq, Prod.mk.injEq] at h
      obtain ⟨rfl, rfl⟩ := h
      have hv : ((top ++ (mid ++ lo) : BitVec (8 + (8 + 8))).setWidth 17).toNat =
          65536 * top.toNat + (256 * mid.toNat + lo.toNat) := by
        rw [BitVec.toNat_setWidth, toNat_append_three, Nat.mod_eq_of_lt]
        have := mid.isLt; have := lo.isLt; omega
      have := mid.isLt; have := lo.isLt
      simp only [put17, List.cons_append, List.nil_append, List.cons.injEq, and_true]
      refine ⟨?_, ?_, ?_⟩ <;> apply BitVec.eq_of_toNat_eq
      · rw [BitVec.extractLsb'_toNat, hv]; simp; omega
      · rw [BitVec.extractLsb'_toNat, hv]; simp only [Nat.shiftRight_eq_div_pow]; omega
      · rw [BitVec.toNat_setWidth, BitVec.extractLsb'_toNat, hv]
        simp only [Nat.shiftRight_eq_div_pow]; omega
    · simp at h

theorem takeIndex_eq_putIndexIn {bs rest : List Byte} {n bound : Nat} (h : takeIndex bs = .ok (n, rest))
    (hn : n ≤ bound) : bs = putIndexIn bound n ++ rest := by
  induction bs generalizing n bound with
  | nil => simp [takeIndex] at h
  | cons b bs ih =>
    have hb := b.isLt
    simp only [takeIndex] at h
    split at h
    · next hlt =>
      simp only [Except.ok.injEq, Prod.mk.injEq] at h
      obtain ⟨rfl, rfl⟩ := h
      cases bound with
      | zero => simp [putIndexIn]
      | succ bound => simp [putIndexIn, hlt]
    · next hge =>
      split at h
      · cases h
      · cases h
      · next m left hm =>
        simp only [Except.ok.injEq, Prod.mk.injEq] at h
        obtain ⟨rfl, rfl⟩ := h
        obtain ⟨f, rfl⟩ : ∃ f, bound = f + 1 := ⟨bound - 1, by omega⟩
        rw [putIndexIn, if_neg (by omega), ih hm (bound := f) (by omega)]
        rw [show (b.toNat - 128 + 128 * (m + 1)) / 128 = m + 1 by omega,
          show 128 + (b.toNat - 128 + 128 * (m + 1)) % 128 = b.toNat by omega]
        simp

/-- A buffer index that is read has one spelling. -/
theorem takeIndex_eq {bs rest : List Byte} {n : Nat} (h : takeIndex bs = .ok (n, rest)) :
    bs = putIndex n ++ rest := takeIndex_eq_putIndexIn h (Nat.le_refl n)

theorem takeBytes_eq {n : Nat} {bs taken rest : List Byte} (h : takeBytes n bs = .ok (taken, rest)) :
    taken.length = n ∧ bs = taken ++ rest := by
  induction n generalizing bs taken with
  | zero => simp_all [takeBytes]
  | succ n ih =>
    cases bs with
    | nil => simp [takeBytes] at h
    | cons b bs =>
      simp only [takeBytes] at h
      split at h
      · next hk =>
        simp only [Except.ok.injEq, Prod.mk.injEq] at h
        obtain ⟨rfl, rfl⟩ := h
        obtain ⟨hl, rfl⟩ := ih hk
        simp [hl]
      · simp at h

theorem takeCounted_eq {bs taken rest : List Byte} (h : takeCounted bs = .ok (taken, rest)) :
    bs = putCounted taken ++ rest := by
  match bs with
  | [] | [_] | [_, _] => simp [takeCounted, take24] at h
  | lo :: mid :: top :: cs =>
    simp only [takeCounted, take24] at h
    obtain ⟨hl, rfl⟩ := takeBytes_eq h
    have := lo.isLt; have := mid.isLt; have := top.isLt
    simp only [putCounted, hl, List.cons_append, List.nil_append, List.cons.injEq, and_true]
    refine ⟨?_, ?_, ?_⟩ <;> apply BitVec.eq_of_toNat_eq <;> simp only [BitVec.toNat_ofNat] <;> omega

end Sys2Proof
end

