-- ==== Sys2Proof/Laws/State.lean ====
section
/-! SUPPORT. What the register updates do to each field of State, one lemma per field per update, and the few facts
about a store to a buffer. -/

namespace Sys2Proof.Machine

variable (s : State)

/-! ## `emit` -/

@[simp] theorem emit_cfg (e : Event) : (emit e s).cfg = s.cfg := rfl
@[simp] theorem emit_state (e : Event) : (emit e s).state = s.state := rfl
@[simp] theorem emit_txPtr (e : Event) : (emit e s).txPtr = s.txPtr := rfl
@[simp] theorem emit_txLen (e : Event) : (emit e s).txLen = s.txLen := rfl
@[simp] theorem emit_txRem (e : Event) : (emit e s).txRem = s.txRem := rfl
@[simp] theorem emit_wrL (e : Event) : (emit e s).wrL = s.wrL := rfl
@[simp] theorem emit_pad (e : Event) : (emit e s).pad = s.pad := rfl
@[simp] theorem emit_txTot (e : Event) : (emit e s).txTot = s.txTot := rfl
@[simp] theorem emit_rxKind (e : Event) : (emit e s).rxKind = s.rxKind := rfl
@[simp] theorem emit_rxLen (e : Event) : (emit e s).rxLen = s.rxLen := rfl
@[simp] theorem emit_rxN (e : Event) : (emit e s).rxN = s.rxN := rfl
@[simp] theorem emit_rxRem (e : Event) : (emit e s).rxRem = s.rxRem := rfl
@[simp] theorem emit_lvl (e : Event) : (emit e s).lvl = s.lvl := rfl
@[simp] theorem emit_wpc (e : Event) : (emit e s).wpc = s.wpc := rfl
@[simp] theorem emit_ipc (e : Event) : (emit e s).ipc = s.ipc := rfl
@[simp] theorem emit_cs (e : Event) : (emit e s).cs = s.cs := rfl
@[simp] theorem emit_irqEn (e : Event) : (emit e s).irqEn = s.irqEn := rfl
@[simp] theorem emit_irqPend (e : Event) : (emit e s).irqPend = s.irqPend := rfl
@[simp] theorem emit_irqMeta (e : Event) : (emit e s).irqMeta = s.irqMeta := rfl
@[simp] theorem emit_irqChain (e : Event) : (emit e s).irqChain = s.irqChain := rfl
@[simp] theorem emit_irqS (e : Event) : (emit e s).irqS = s.irqS := rfl
@[simp] theorem emit_irqPrev (e : Event) : (emit e s).irqPrev = s.irqPrev := rfl
@[simp] theorem emit_halted (e : Event) : (emit e s).halted = s.halted := rfl
@[simp] theorem emit_tx (e : Event) : (emit e s).tx = s.tx := rfl
@[simp] theorem emit_rx (e : Event) : (emit e s).rx = s.rx := rfl
@[simp] theorem emit_xReq (e : Event) : (emit e s).xReq = s.xReq := rfl
@[simp] theorem emit_xOut (e : Event) : (emit e s).xOut = s.xOut := rfl
@[simp] theorem emit_xIn (e : Event) : (emit e s).xIn = s.xIn := rfl
@[simp] theorem emit_dReq (e : Event) : (emit e s).dReq = s.dReq := rfl
@[simp] theorem emit_dUs (e : Event) : (emit e s).dUs = s.dUs := rfl
@[simp] theorem emit_sValid (e : Event) : (emit e s).sValid = s.sValid := rfl
@[simp] theorem emit_sPtr (e : Event) : (emit e s).sPtr = s.sPtr := rfl
@[simp] theorem emit_sLen (e : Event) : (emit e s).sLen = s.sLen := rfl
@[simp] theorem emit_txOpen (e : Event) : (emit e s).txOpen = s.txOpen := rfl
@[simp] theorem emit_rxOpen (e : Event) : (emit e s).rxOpen = s.rxOpen := rfl
@[simp] theorem emit_uop (e : Event) : (emit e s).uop = s.uop := rfl
@[simp] theorem emit_epoch (e : Event) : (emit e s).epoch = s.epoch := rfl
@[simp] theorem emit_free (e : Event) : (emit e s).free = s.free := rfl
@[simp] theorem emit_trace (e : Event) : (emit e s).trace = e :: s.trace := rfl
@[simp] theorem emit_env (e : Event) : (emit e s).env = s.env := rfl

/-! ## `setState` -/

@[simp] theorem setState_cfg (v : TransportState) : (setState v s).cfg = s.cfg := rfl
@[simp] theorem setState_state (v : TransportState) : (setState v s).state = v := rfl
@[simp] theorem setState_txPtr (v : TransportState) : (setState v s).txPtr = s.txPtr := rfl
@[simp] theorem setState_txLen (v : TransportState) : (setState v s).txLen = s.txLen := rfl
@[simp] theorem setState_txRem (v : TransportState) : (setState v s).txRem = s.txRem := rfl
@[simp] theorem setState_wrL (v : TransportState) : (setState v s).wrL = s.wrL := rfl
@[simp] theorem setState_pad (v : TransportState) : (setState v s).pad = s.pad := rfl
@[simp] theorem setState_txTot (v : TransportState) : (setState v s).txTot = s.txTot := rfl
@[simp] theorem setState_rxKind (v : TransportState) : (setState v s).rxKind = s.rxKind := rfl
@[simp] theorem setState_rxLen (v : TransportState) : (setState v s).rxLen = s.rxLen := rfl
@[simp] theorem setState_rxN (v : TransportState) : (setState v s).rxN = s.rxN := rfl
@[simp] theorem setState_rxRem (v : TransportState) : (setState v s).rxRem = s.rxRem := rfl
@[simp] theorem setState_lvl (v : TransportState) : (setState v s).lvl = s.lvl := rfl
@[simp] theorem setState_wpc (v : TransportState) : (setState v s).wpc = s.wpc := rfl
@[simp] theorem setState_ipc (v : TransportState) : (setState v s).ipc = s.ipc := rfl
@[simp] theorem setState_cs (v : TransportState) : (setState v s).cs = s.cs := rfl
@[simp] theorem setState_irqEn (v : TransportState) : (setState v s).irqEn = s.irqEn := rfl
@[simp] theorem setState_irqPend (v : TransportState) : (setState v s).irqPend = s.irqPend := rfl
@[simp] theorem setState_irqMeta (v : TransportState) : (setState v s).irqMeta = s.irqMeta := rfl
@[simp] theorem setState_irqChain (v : TransportState) : (setState v s).irqChain = s.irqChain := rfl
@[simp] theorem setState_irqS (v : TransportState) : (setState v s).irqS = s.irqS := rfl
@[simp] theorem setState_irqPrev (v : TransportState) : (setState v s).irqPrev = s.irqPrev := rfl
@[simp] theorem setState_halted (v : TransportState) : (setState v s).halted = s.halted := rfl
@[simp] theorem setState_tx (v : TransportState) : (setState v s).tx = s.tx := rfl
@[simp] theorem setState_rx (v : TransportState) : (setState v s).rx = s.rx := rfl
@[simp] theorem setState_xReq (v : TransportState) : (setState v s).xReq = s.xReq := rfl
@[simp] theorem setState_xOut (v : TransportState) : (setState v s).xOut = s.xOut := rfl
@[simp] theorem setState_xIn (v : TransportState) : (setState v s).xIn = s.xIn := rfl
@[simp] theorem setState_dReq (v : TransportState) : (setState v s).dReq = s.dReq := rfl
@[simp] theorem setState_dUs (v : TransportState) : (setState v s).dUs = s.dUs := rfl
@[simp] theorem setState_sValid (v : TransportState) : (setState v s).sValid = s.sValid := rfl
@[simp] theorem setState_sPtr (v : TransportState) : (setState v s).sPtr = s.sPtr := rfl
@[simp] theorem setState_sLen (v : TransportState) : (setState v s).sLen = s.sLen := rfl
@[simp] theorem setState_txOpen (v : TransportState) : (setState v s).txOpen = s.txOpen := rfl
@[simp] theorem setState_rxOpen (v : TransportState) : (setState v s).rxOpen = s.rxOpen := rfl
@[simp] theorem setState_uop (v : TransportState) : (setState v s).uop = s.uop := rfl
@[simp] theorem setState_epoch (v : TransportState) : (setState v s).epoch = s.epoch := rfl
@[simp] theorem setState_free (v : TransportState) : (setState v s).free = s.free := rfl
@[simp] theorem setState_trace (v : TransportState) : (setState v s).trace = .st v :: s.trace := rfl
@[simp] theorem setState_env (v : TransportState) : (setState v s).env = s.env := rfl

/-! ## `goW` -/

@[simp] theorem goW_cfg (l : WLabel) : (goW l s).cfg = s.cfg := rfl
@[simp] theorem goW_state (l : WLabel) : (goW l s).state = s.state := rfl
@[simp] theorem goW_txPtr (l : WLabel) : (goW l s).txPtr = s.txPtr := rfl
@[simp] theorem goW_txLen (l : WLabel) : (goW l s).txLen = s.txLen := rfl
@[simp] theorem goW_txRem (l : WLabel) : (goW l s).txRem = s.txRem := rfl
@[simp] theorem goW_wrL (l : WLabel) : (goW l s).wrL = s.wrL := rfl
@[simp] theorem goW_pad (l : WLabel) : (goW l s).pad = s.pad := rfl
@[simp] theorem goW_txTot (l : WLabel) : (goW l s).txTot = s.txTot := rfl
@[simp] theorem goW_rxKind (l : WLabel) : (goW l s).rxKind = s.rxKind := rfl
@[simp] theorem goW_rxLen (l : WLabel) : (goW l s).rxLen = s.rxLen := rfl
@[simp] theorem goW_rxN (l : WLabel) : (goW l s).rxN = s.rxN := rfl
@[simp] theorem goW_rxRem (l : WLabel) : (goW l s).rxRem = s.rxRem := rfl
@[simp] theorem goW_lvl (l : WLabel) : (goW l s).lvl = s.lvl := rfl
@[simp] theorem goW_wpc (l : WLabel) : (goW l s).wpc = l := rfl
@[simp] theorem goW_ipc (l : WLabel) : (goW l s).ipc = s.ipc := rfl
@[simp] theorem goW_cs (l : WLabel) : (goW l s).cs = s.cs := rfl
@[simp] theorem goW_irqEn (l : WLabel) : (goW l s).irqEn = s.irqEn := rfl
@[simp] theorem goW_irqPend (l : WLabel) : (goW l s).irqPend = s.irqPend := rfl
@[simp] theorem goW_irqMeta (l : WLabel) : (goW l s).irqMeta = s.irqMeta := rfl
@[simp] theorem goW_irqChain (l : WLabel) : (goW l s).irqChain = s.irqChain := rfl
@[simp] theorem goW_irqS (l : WLabel) : (goW l s).irqS = s.irqS := rfl
@[simp] theorem goW_irqPrev (l : WLabel) : (goW l s).irqPrev = s.irqPrev := rfl
@[simp] theorem goW_halted (l : WLabel) : (goW l s).halted = s.halted := rfl
@[simp] theorem goW_tx (l : WLabel) : (goW l s).tx = s.tx := rfl
@[simp] theorem goW_rx (l : WLabel) : (goW l s).rx = s.rx := rfl
@[simp] theorem goW_xReq (l : WLabel) : (goW l s).xReq = s.xReq := rfl
@[simp] theorem goW_xOut (l : WLabel) : (goW l s).xOut = s.xOut := rfl
@[simp] theorem goW_xIn (l : WLabel) : (goW l s).xIn = s.xIn := rfl
@[simp] theorem goW_dReq (l : WLabel) : (goW l s).dReq = s.dReq := rfl
@[simp] theorem goW_dUs (l : WLabel) : (goW l s).dUs = s.dUs := rfl
@[simp] theorem goW_sValid (l : WLabel) : (goW l s).sValid = s.sValid := rfl
@[simp] theorem goW_sPtr (l : WLabel) : (goW l s).sPtr = s.sPtr := rfl
@[simp] theorem goW_sLen (l : WLabel) : (goW l s).sLen = s.sLen := rfl
@[simp] theorem goW_txOpen (l : WLabel) : (goW l s).txOpen = s.txOpen := rfl
@[simp] theorem goW_rxOpen (l : WLabel) : (goW l s).rxOpen = s.rxOpen := rfl
@[simp] theorem goW_uop (l : WLabel) : (goW l s).uop = s.uop := rfl
@[simp] theorem goW_epoch (l : WLabel) : (goW l s).epoch = s.epoch := rfl
@[simp] theorem goW_free (l : WLabel) : (goW l s).free = s.free := rfl
@[simp] theorem goW_trace (l : WLabel) : (goW l s).trace = s.trace := rfl
@[simp] theorem goW_env (l : WLabel) : (goW l s).env = s.env := rfl

/-! ## `goI` -/

@[simp] theorem goI_cfg (l : ILabel) : (goI l s).cfg = s.cfg := rfl
@[simp] theorem goI_state (l : ILabel) : (goI l s).state = s.state := rfl
@[simp] theorem goI_txPtr (l : ILabel) : (goI l s).txPtr = s.txPtr := rfl
@[simp] theorem goI_txLen (l : ILabel) : (goI l s).txLen = s.txLen := rfl
@[simp] theorem goI_txRem (l : ILabel) : (goI l s).txRem = s.txRem := rfl
@[simp] theorem goI_wrL (l : ILabel) : (goI l s).wrL = s.wrL := rfl
@[simp] theorem goI_pad (l : ILabel) : (goI l s).pad = s.pad := rfl
@[simp] theorem goI_txTot (l : ILabel) : (goI l s).txTot = s.txTot := rfl
@[simp] theorem goI_rxKind (l : ILabel) : (goI l s).rxKind = s.rxKind := rfl
@[simp] theorem goI_rxLen (l : ILabel) : (goI l s).rxLen = s.rxLen := rfl
@[simp] theorem goI_rxN (l : ILabel) : (goI l s).rxN = s.rxN := rfl
@[simp] theorem goI_rxRem (l : ILabel) : (goI l s).rxRem = s.rxRem := rfl
@[simp] theorem goI_lvl (l : ILabel) : (goI l s).lvl = s.lvl := rfl
@[simp] theorem goI_wpc (l : ILabel) : (goI l s).wpc = s.wpc := rfl
@[simp] theorem goI_ipc (l : ILabel) : (goI l s).ipc = l := rfl
@[simp] theorem goI_cs (l : ILabel) : (goI l s).cs = s.cs := rfl
@[simp] theorem goI_irqEn (l : ILabel) : (goI l s).irqEn = s.irqEn := rfl
@[simp] theorem goI_irqPend (l : ILabel) : (goI l s).irqPend = s.irqPend := rfl
@[simp] theorem goI_irqMeta (l : ILabel) : (goI l s).irqMeta = s.irqMeta := rfl
@[simp] theorem goI_irqChain (l : ILabel) : (goI l s).irqChain = s.irqChain := rfl
@[simp] theorem goI_irqS (l : ILabel) : (goI l s).irqS = s.irqS := rfl
@[simp] theorem goI_irqPrev (l : ILabel) : (goI l s).irqPrev = s.irqPrev := rfl
@[simp] theorem goI_halted (l : ILabel) : (goI l s).halted = s.halted := rfl
@[simp] theorem goI_tx (l : ILabel) : (goI l s).tx = s.tx := rfl
@[simp] theorem goI_rx (l : ILabel) : (goI l s).rx = s.rx := rfl
@[simp] theorem goI_xReq (l : ILabel) : (goI l s).xReq = s.xReq := rfl
@[simp] theorem goI_xOut (l : ILabel) : (goI l s).xOut = s.xOut := rfl
@[simp] theorem goI_xIn (l : ILabel) : (goI l s).xIn = s.xIn := rfl
@[simp] theorem goI_dReq (l : ILabel) : (goI l s).dReq = s.dReq := rfl
@[simp] theorem goI_dUs (l : ILabel) : (goI l s).dUs = s.dUs := rfl
@[simp] theorem goI_sValid (l : ILabel) : (goI l s).sValid = s.sValid := rfl
@[simp] theorem goI_sPtr (l : ILabel) : (goI l s).sPtr = s.sPtr := rfl
@[simp] theorem goI_sLen (l : ILabel) : (goI l s).sLen = s.sLen := rfl
@[simp] theorem goI_txOpen (l : ILabel) : (goI l s).txOpen = s.txOpen := rfl
@[simp] theorem goI_rxOpen (l : ILabel) : (goI l s).rxOpen = s.rxOpen := rfl
@[simp] theorem goI_uop (l : ILabel) : (goI l s).uop = s.uop := rfl
@[simp] theorem goI_epoch (l : ILabel) : (goI l s).epoch = s.epoch := rfl
@[simp] theorem goI_free (l : ILabel) : (goI l s).free = s.free := rfl
@[simp] theorem goI_trace (l : ILabel) : (goI l s).trace = s.trace := rfl
@[simp] theorem goI_env (l : ILabel) : (goI l s).env = s.env := rfl

/-! ## `takeEdge` -/

@[simp] theorem takeEdge_cfg : (takeEdge s).cfg = s.cfg := rfl
@[simp] theorem takeEdge_state : (takeEdge s).state = s.state := rfl
@[simp] theorem takeEdge_txPtr : (takeEdge s).txPtr = s.txPtr := rfl
@[simp] theorem takeEdge_txLen : (takeEdge s).txLen = s.txLen := rfl
@[simp] theorem takeEdge_txRem : (takeEdge s).txRem = s.txRem := rfl
@[simp] theorem takeEdge_wrL : (takeEdge s).wrL = s.wrL := rfl
@[simp] theorem takeEdge_pad : (takeEdge s).pad = s.pad := rfl
@[simp] theorem takeEdge_txTot : (takeEdge s).txTot = s.txTot := rfl
@[simp] theorem takeEdge_rxKind : (takeEdge s).rxKind = s.rxKind := rfl
@[simp] theorem takeEdge_rxLen : (takeEdge s).rxLen = s.rxLen := rfl
@[simp] theorem takeEdge_rxN : (takeEdge s).rxN = s.rxN := rfl
@[simp] theorem takeEdge_rxRem : (takeEdge s).rxRem = s.rxRem := rfl
@[simp] theorem takeEdge_lvl : (takeEdge s).lvl = s.lvl := rfl
@[simp] theorem takeEdge_wpc : (takeEdge s).wpc = s.wpc := rfl
@[simp] theorem takeEdge_ipc : (takeEdge s).ipc = s.ipc := rfl
@[simp] theorem takeEdge_cs : (takeEdge s).cs = s.cs := rfl
@[simp] theorem takeEdge_irqEn : (takeEdge s).irqEn = s.irqEn := rfl
@[simp] theorem takeEdge_irqPend : (takeEdge s).irqPend = false := rfl
@[simp] theorem takeEdge_irqMeta : (takeEdge s).irqMeta = s.irqMeta := rfl
@[simp] theorem takeEdge_irqChain : (takeEdge s).irqChain = s.irqChain := rfl
@[simp] theorem takeEdge_irqS : (takeEdge s).irqS = s.irqS := rfl
@[simp] theorem takeEdge_irqPrev : (takeEdge s).irqPrev = s.irqPrev := rfl
@[simp] theorem takeEdge_halted : (takeEdge s).halted = s.halted := rfl
@[simp] theorem takeEdge_tx : (takeEdge s).tx = s.tx := rfl
@[simp] theorem takeEdge_rx : (takeEdge s).rx = s.rx := rfl
@[simp] theorem takeEdge_xReq : (takeEdge s).xReq = s.xReq := rfl
@[simp] theorem takeEdge_xOut : (takeEdge s).xOut = s.xOut := rfl
@[simp] theorem takeEdge_xIn : (takeEdge s).xIn = s.xIn := rfl
@[simp] theorem takeEdge_dReq : (takeEdge s).dReq = s.dReq := rfl
@[simp] theorem takeEdge_dUs : (takeEdge s).dUs = s.dUs := rfl
@[simp] theorem takeEdge_sValid : (takeEdge s).sValid = s.sValid := rfl
@[simp] theorem takeEdge_sPtr : (takeEdge s).sPtr = s.sPtr := rfl
@[simp] theorem takeEdge_sLen : (takeEdge s).sLen = s.sLen := rfl
@[simp] theorem takeEdge_txOpen : (takeEdge s).txOpen = s.txOpen := rfl
@[simp] theorem takeEdge_rxOpen : (takeEdge s).rxOpen = s.rxOpen := rfl
@[simp] theorem takeEdge_uop : (takeEdge s).uop = s.uop := rfl
@[simp] theorem takeEdge_epoch : (takeEdge s).epoch = s.epoch := rfl
@[simp] theorem takeEdge_free : (takeEdge s).free = s.free := rfl
@[simp] theorem takeEdge_trace : (takeEdge s).trace = s.trace := rfl
@[simp] theorem takeEdge_env : (takeEdge s).env = s.env := rfl

/-! ## `withdraw` -/

@[simp] theorem withdraw_cfg : (withdraw s).cfg = s.cfg := rfl
@[simp] theorem withdraw_state : (withdraw s).state = s.state := rfl
@[simp] theorem withdraw_txPtr : (withdraw s).txPtr = s.txPtr := rfl
@[simp] theorem withdraw_txLen : (withdraw s).txLen = s.txLen := rfl
@[simp] theorem withdraw_txRem : (withdraw s).txRem = s.txRem := rfl
@[simp] theorem withdraw_wrL : (withdraw s).wrL = s.wrL := rfl
@[simp] theorem withdraw_pad : (withdraw s).pad = s.pad := rfl
@[simp] theorem withdraw_txTot : (withdraw s).txTot = s.txTot := rfl
@[simp] theorem withdraw_rxKind : (withdraw s).rxKind = s.rxKind := rfl
@[simp] theorem withdraw_rxLen : (withdraw s).rxLen = s.rxLen := rfl
@[simp] theorem withdraw_rxN : (withdraw s).rxN = s.rxN := rfl
@[simp] theorem withdraw_rxRem : (withdraw s).rxRem = s.rxRem := rfl
@[simp] theorem withdraw_lvl : (withdraw s).lvl = s.lvl := rfl
@[simp] theorem withdraw_wpc : (withdraw s).wpc = s.wpc := rfl
@[simp] theorem withdraw_ipc : (withdraw s).ipc = s.ipc := rfl
@[simp] theorem withdraw_cs : (withdraw s).cs = s.cs := rfl
@[simp] theorem withdraw_irqEn : (withdraw s).irqEn = s.irqEn := rfl
@[simp] theorem withdraw_irqPend : (withdraw s).irqPend = s.irqPend := rfl
@[simp] theorem withdraw_irqMeta : (withdraw s).irqMeta = s.irqMeta := rfl
@[simp] theorem withdraw_irqChain : (withdraw s).irqChain = s.irqChain := rfl
@[simp] theorem withdraw_irqS : (withdraw s).irqS = s.irqS := rfl
@[simp] theorem withdraw_irqPrev : (withdraw s).irqPrev = s.irqPrev := rfl
@[simp] theorem withdraw_halted : (withdraw s).halted = s.halted := rfl
@[simp] theorem withdraw_tx : (withdraw s).tx = s.tx := rfl
@[simp] theorem withdraw_rx : (withdraw s).rx = s.rx := rfl
@[simp] theorem withdraw_xReq : (withdraw s).xReq = s.xReq := rfl
@[simp] theorem withdraw_xOut : (withdraw s).xOut = s.xOut := rfl
@[simp] theorem withdraw_xIn : (withdraw s).xIn = s.xIn := rfl
@[simp] theorem withdraw_dReq : (withdraw s).dReq = s.dReq := rfl
@[simp] theorem withdraw_dUs : (withdraw s).dUs = s.dUs := rfl
@[simp] theorem withdraw_sValid : (withdraw s).sValid = s.sValid := rfl
@[simp] theorem withdraw_sPtr : (withdraw s).sPtr = s.sPtr := rfl
@[simp] theorem withdraw_sLen : (withdraw s).sLen = s.sLen := rfl
@[simp] theorem withdraw_txOpen : (withdraw s).txOpen = s.txOpen := rfl
@[simp] theorem withdraw_rxOpen : (withdraw s).rxOpen = s.rxOpen := rfl
@[simp] theorem withdraw_uop : (withdraw s).uop = s.uop := rfl
@[simp] theorem withdraw_epoch : (withdraw s).epoch = s.epoch := rfl
@[simp] theorem withdraw_free : (withdraw s).free = s.free := rfl
@[simp] theorem withdraw_trace : (withdraw s).trace = s.trace := rfl
@[simp] theorem withdraw_env : (withdraw s).env = { s.env with cmdValid := false } := rfl

/-! ## `present` -/

@[simp] theorem present_cfg (c : BitVec 2) (n : Half) : (present c n s).cfg = s.cfg := rfl
@[simp] theorem present_state (c : BitVec 2) (n : Half) : (present c n s).state = s.state := rfl
@[simp] theorem present_txPtr (c : BitVec 2) (n : Half) : (present c n s).txPtr = s.txPtr := rfl
@[simp] theorem present_txLen (c : BitVec 2) (n : Half) : (present c n s).txLen = s.txLen := rfl
@[simp] theorem present_txRem (c : BitVec 2) (n : Half) : (present c n s).txRem = s.txRem := rfl
@[simp] theorem present_wrL (c : BitVec 2) (n : Half) : (present c n s).wrL = s.wrL := rfl
@[simp] theorem present_pad (c : BitVec 2) (n : Half) : (present c n s).pad = s.pad := rfl
@[simp] theorem present_txTot (c : BitVec 2) (n : Half) : (present c n s).txTot = s.txTot := rfl
@[simp] theorem present_rxKind (c : BitVec 2) (n : Half) : (present c n s).rxKind = s.rxKind := rfl
@[simp] theorem present_rxLen (c : BitVec 2) (n : Half) : (present c n s).rxLen = s.rxLen := rfl
@[simp] theorem present_rxN (c : BitVec 2) (n : Half) : (present c n s).rxN = s.rxN := rfl
@[simp] theorem present_rxRem (c : BitVec 2) (n : Half) : (present c n s).rxRem = s.rxRem := rfl
@[simp] theorem present_lvl (c : BitVec 2) (n : Half) : (present c n s).lvl = s.lvl := rfl
@[simp] theorem present_wpc (c : BitVec 2) (n : Half) : (present c n s).wpc = s.wpc := rfl
@[simp] theorem present_ipc (c : BitVec 2) (n : Half) : (present c n s).ipc = s.ipc := rfl
@[simp] theorem present_cs (c : BitVec 2) (n : Half) : (present c n s).cs = s.cs := rfl
@[simp] theorem present_irqEn (c : BitVec 2) (n : Half) : (present c n s).irqEn = s.irqEn := rfl
@[simp] theorem present_irqPend (c : BitVec 2) (n : Half) : (present c n s).irqPend = s.irqPend := rfl
@[simp] theorem present_irqMeta (c : BitVec 2) (n : Half) : (present c n s).irqMeta = s.irqMeta := rfl
@[simp] theorem present_irqChain (c : BitVec 2) (n : Half) : (present c n s).irqChain = s.irqChain := rfl
@[simp] theorem present_irqS (c : BitVec 2) (n : Half) : (present c n s).irqS = s.irqS := rfl
@[simp] theorem present_irqPrev (c : BitVec 2) (n : Half) : (present c n s).irqPrev = s.irqPrev := rfl
@[simp] theorem present_halted (c : BitVec 2) (n : Half) : (present c n s).halted = s.halted := rfl
@[simp] theorem present_tx (c : BitVec 2) (n : Half) : (present c n s).tx = s.tx := rfl
@[simp] theorem present_rx (c : BitVec 2) (n : Half) : (present c n s).rx = s.rx := rfl
@[simp] theorem present_xReq (c : BitVec 2) (n : Half) : (present c n s).xReq = s.xReq := rfl
@[simp] theorem present_xOut (c : BitVec 2) (n : Half) : (present c n s).xOut = s.xOut := rfl
@[simp] theorem present_xIn (c : BitVec 2) (n : Half) : (present c n s).xIn = s.xIn := rfl
@[simp] theorem present_dReq (c : BitVec 2) (n : Half) : (present c n s).dReq = s.dReq := rfl
@[simp] theorem present_dUs (c : BitVec 2) (n : Half) : (present c n s).dUs = s.dUs := rfl
@[simp] theorem present_sValid (c : BitVec 2) (n : Half) : (present c n s).sValid = s.sValid := rfl
@[simp] theorem present_sPtr (c : BitVec 2) (n : Half) : (present c n s).sPtr = s.sPtr := rfl
@[simp] theorem present_sLen (c : BitVec 2) (n : Half) : (present c n s).sLen = s.sLen := rfl
@[simp] theorem present_txOpen (c : BitVec 2) (n : Half) : (present c n s).txOpen = s.txOpen := rfl
@[simp] theorem present_rxOpen (c : BitVec 2) (n : Half) : (present c n s).rxOpen = s.rxOpen := rfl
@[simp] theorem present_uop (c : BitVec 2) (n : Half) : (present c n s).uop = s.uop := rfl
@[simp] theorem present_epoch (c : BitVec 2) (n : Half) : (present c n s).epoch = s.epoch := rfl
@[simp] theorem present_free (c : BitVec 2) (n : Half) : (present c n s).free = s.free := rfl
@[simp] theorem present_trace (c : BitVec 2) (n : Half) : (present c n s).trace = s.trace := rfl
@[simp] theorem present_env (c : BitVec 2) (n : Half) : (present c n s).env = { s.env with cmdValid := true, cmd := c, wrLen := n } := rfl

/-! ## `setDecoded` -/

@[simp] theorem setDecoded_cfg (k : FrameKind) (l : Half) (n : Count) : (setDecoded k l n s).cfg = s.cfg := rfl
@[simp] theorem setDecoded_state (k : FrameKind) (l : Half) (n : Count) : (setDecoded k l n s).state = s.state := rfl
@[simp] theorem setDecoded_txPtr (k : FrameKind) (l : Half) (n : Count) : (setDecoded k l n s).txPtr = s.txPtr := rfl
@[simp] theorem setDecoded_txLen (k : FrameKind) (l : Half) (n : Count) : (setDecoded k l n s).txLen = s.txLen := rfl
@[simp] theorem setDecoded_txRem (k : FrameKind) (l : Half) (n : Count) : (setDecoded k l n s).txRem = s.txRem := rfl
@[simp] theorem setDecoded_wrL (k : FrameKind) (l : Half) (n : Count) : (setDecoded k l n s).wrL = s.wrL := rfl
@[simp] theorem setDecoded_pad (k : FrameKind) (l : Half) (n : Count) : (setDecoded k l n s).pad = s.pad := rfl
@[simp] theorem setDecoded_txTot (k : FrameKind) (l : Half) (n : Count) : (setDecoded k l n s).txTot = s.txTot := rfl
@[simp] theorem setDecoded_rxKind (k : FrameKind) (l : Half) (n : Count) : (setDecoded k l n s).rxKind = k := rfl
@[simp] theorem setDecoded_rxLen (k : FrameKind) (l : Half) (n : Count) : (setDecoded k l n s).rxLen = l := rfl
@[simp] theorem setDecoded_rxN (k : FrameKind) (l : Half) (n : Count) : (setDecoded k l n s).rxN = n := rfl
@[simp] theorem setDecoded_rxRem (k : FrameKind) (l : Half) (n : Count) : (setDecoded k l n s).rxRem = s.rxRem := rfl
@[simp] theorem setDecoded_lvl (k : FrameKind) (l : Half) (n : Count) : (setDecoded k l n s).lvl = s.lvl := rfl
@[simp] theorem setDecoded_wpc (k : FrameKind) (l : Half) (n : Count) : (setDecoded k l n s).wpc = s.wpc := rfl
@[simp] theorem setDecoded_ipc (k : FrameKind) (l : Half) (n : Count) : (setDecoded k l n s).ipc = s.ipc := rfl
@[simp] theorem setDecoded_cs (k : FrameKind) (l : Half) (n : Count) : (setDecoded k l n s).cs = s.cs := rfl
@[simp] theorem setDecoded_irqEn (k : FrameKind) (l : Half) (n : Count) : (setDecoded k l n s).irqEn = s.irqEn := rfl
@[simp] theorem setDecoded_irqPend (k : FrameKind) (l : Half) (n : Count) : (setDecoded k l n s).irqPend = s.irqPend := rfl
@[simp] theorem setDecoded_irqMeta (k : FrameKind) (l : Half) (n : Count) : (setDecoded k l n s).irqMeta = s.irqMeta := rfl
@[simp] theorem setDecoded_irqChain (k : FrameKind) (l : Half) (n : Count) : (setDecoded k l n s).irqChain = s.irqChain := rfl
@[simp] theorem setDecoded_irqS (k : FrameKind) (l : Half) (n : Count) : (setDecoded k l n s).irqS = s.irqS := rfl
@[simp] theorem setDecoded_irqPrev (k : FrameKind) (l : Half) (n : Count) : (setDecoded k l n s).irqPrev = s.irqPrev := rfl
@[simp] theorem setDecoded_halted (k : FrameKind) (l : Half) (n : Count) : (setDecoded k l n s).halted = s.halted := rfl
@[simp] theorem setDecoded_tx (k : FrameKind) (l : Half) (n : Count) : (setDecoded k l n s).tx = s.tx := rfl
@[simp] theorem setDecoded_rx (k : FrameKind) (l : Half) (n : Count) : (setDecoded k l n s).rx = s.rx := rfl
@[simp] theorem setDecoded_xReq (k : FrameKind) (l : Half) (n : Count) : (setDecoded k l n s).xReq = s.xReq := rfl
@[simp] theorem setDecoded_xOut (k : FrameKind) (l : Half) (n : Count) : (setDecoded k l n s).xOut = s.xOut := rfl
@[simp] theorem setDecoded_xIn (k : FrameKind) (l : Half) (n : Count) : (setDecoded k l n s).xIn = s.xIn := rfl
@[simp] theorem setDecoded_dReq (k : FrameKind) (l : Half) (n : Count) : (setDecoded k l n s).dReq = s.dReq := rfl
@[simp] theorem setDecoded_dUs (k : FrameKind) (l : Half) (n : Count) : (setDecoded k l n s).dUs = s.dUs := rfl
@[simp] theorem setDecoded_sValid (k : FrameKind) (l : Half) (n : Count) : (setDecoded k l n s).sValid = s.sValid := rfl
@[simp] theorem setDecoded_sPtr (k : FrameKind) (l : Half) (n : Count) : (setDecoded k l n s).sPtr = s.sPtr := rfl
@[simp] theorem setDecoded_sLen (k : FrameKind) (l : Half) (n : Count) : (setDecoded k l n s).sLen = s.sLen := rfl
@[simp] theorem setDecoded_txOpen (k : FrameKind) (l : Half) (n : Count) : (setDecoded k l n s).txOpen = s.txOpen := rfl
@[simp] theorem setDecoded_rxOpen (k : FrameKind) (l : Half) (n : Count) : (setDecoded k l n s).rxOpen = s.rxOpen := rfl
@[simp] theorem setDecoded_uop (k : FrameKind) (l : Half) (n : Count) : (setDecoded k l n s).uop = s.uop := rfl
@[simp] theorem setDecoded_epoch (k : FrameKind) (l : Half) (n : Count) : (setDecoded k l n s).epoch = s.epoch := rfl
@[simp] theorem setDecoded_free (k : FrameKind) (l : Half) (n : Count) : (setDecoded k l n s).free = s.free := rfl
@[simp] theorem setDecoded_trace (k : FrameKind) (l : Half) (n : Count) : (setDecoded k l n s).trace = s.trace := rfl
@[simp] theorem setDecoded_env (k : FrameKind) (l : Half) (n : Count) : (setDecoded k l n s).env = s.env := rfl

/-! ## `raiseCorruption` -/

@[simp] theorem raiseCorruption_cfg (x : Site) : (raiseCorruption x s).cfg = s.cfg := rfl
@[simp] theorem raiseCorruption_state (x : Site) : (raiseCorruption x s).state = s.state := rfl
@[simp] theorem raiseCorruption_txPtr (x : Site) : (raiseCorruption x s).txPtr = s.txPtr := rfl
@[simp] theorem raiseCorruption_txLen (x : Site) : (raiseCorruption x s).txLen = s.txLen := rfl
@[simp] theorem raiseCorruption_txRem (x : Site) : (raiseCorruption x s).txRem = s.txRem := rfl
@[simp] theorem raiseCorruption_wrL (x : Site) : (raiseCorruption x s).wrL = s.wrL := rfl
@[simp] theorem raiseCorruption_pad (x : Site) : (raiseCorruption x s).pad = s.pad := rfl
@[simp] theorem raiseCorruption_txTot (x : Site) : (raiseCorruption x s).txTot = s.txTot := rfl
@[simp] theorem raiseCorruption_rxKind (x : Site) : (raiseCorruption x s).rxKind = s.rxKind := rfl
@[simp] theorem raiseCorruption_rxLen (x : Site) : (raiseCorruption x s).rxLen = s.rxLen := rfl
@[simp] theorem raiseCorruption_rxN (x : Site) : (raiseCorruption x s).rxN = s.rxN := rfl
@[simp] theorem raiseCorruption_rxRem (x : Site) : (raiseCorruption x s).rxRem = s.rxRem := rfl
@[simp] theorem raiseCorruption_lvl (x : Site) : (raiseCorruption x s).lvl = s.lvl := rfl
@[simp] theorem raiseCorruption_wpc (x : Site) : (raiseCorruption x s).wpc = s.wpc := rfl
@[simp] theorem raiseCorruption_ipc (x : Site) : (raiseCorruption x s).ipc = s.ipc := rfl
@[simp] theorem raiseCorruption_cs (x : Site) : (raiseCorruption x s).cs = s.cs := rfl
@[simp] theorem raiseCorruption_irqEn (x : Site) : (raiseCorruption x s).irqEn = s.irqEn := rfl
@[simp] theorem raiseCorruption_irqPend (x : Site) : (raiseCorruption x s).irqPend = s.irqPend := rfl
@[simp] theorem raiseCorruption_irqMeta (x : Site) : (raiseCorruption x s).irqMeta = s.irqMeta := rfl
@[simp] theorem raiseCorruption_irqChain (x : Site) : (raiseCorruption x s).irqChain = s.irqChain := rfl
@[simp] theorem raiseCorruption_irqS (x : Site) : (raiseCorruption x s).irqS = s.irqS := rfl
@[simp] theorem raiseCorruption_irqPrev (x : Site) : (raiseCorruption x s).irqPrev = s.irqPrev := rfl
@[simp] theorem raiseCorruption_halted (x : Site) : (raiseCorruption x s).halted = true := rfl
@[simp] theorem raiseCorruption_tx (x : Site) : (raiseCorruption x s).tx = s.tx := rfl
@[simp] theorem raiseCorruption_rx (x : Site) : (raiseCorruption x s).rx = s.rx := rfl
@[simp] theorem raiseCorruption_xReq (x : Site) : (raiseCorruption x s).xReq = s.xReq := rfl
@[simp] theorem raiseCorruption_xOut (x : Site) : (raiseCorruption x s).xOut = s.xOut := rfl
@[simp] theorem raiseCorruption_xIn (x : Site) : (raiseCorruption x s).xIn = s.xIn := rfl
@[simp] theorem raiseCorruption_dReq (x : Site) : (raiseCorruption x s).dReq = s.dReq := rfl
@[simp] theorem raiseCorruption_dUs (x : Site) : (raiseCorruption x s).dUs = s.dUs := rfl
@[simp] theorem raiseCorruption_sValid (x : Site) : (raiseCorruption x s).sValid = s.sValid := rfl
@[simp] theorem raiseCorruption_sPtr (x : Site) : (raiseCorruption x s).sPtr = s.sPtr := rfl
@[simp] theorem raiseCorruption_sLen (x : Site) : (raiseCorruption x s).sLen = s.sLen := rfl
@[simp] theorem raiseCorruption_txOpen (x : Site) : (raiseCorruption x s).txOpen = s.txOpen := rfl
@[simp] theorem raiseCorruption_rxOpen (x : Site) : (raiseCorruption x s).rxOpen = s.rxOpen := rfl
@[simp] theorem raiseCorruption_uop (x : Site) : (raiseCorruption x s).uop = s.uop := rfl
@[simp] theorem raiseCorruption_epoch (x : Site) : (raiseCorruption x s).epoch = s.epoch := rfl
@[simp] theorem raiseCorruption_free (x : Site) : (raiseCorruption x s).free = s.free := rfl
@[simp] theorem raiseCorruption_trace (x : Site) : (raiseCorruption x s).trace = .halt x :: s.trace := rfl
@[simp] theorem raiseCorruption_env (x : Site) : (raiseCorruption x s).env = s.env := rfl

/-! ## `State.store` -/

@[simp] theorem store_cfg (sp : Space) (i : Nat) (bs : List Byte) : (s.store sp i bs).cfg = s.cfg := by cases sp <;> rfl
@[simp] theorem store_state (sp : Space) (i : Nat) (bs : List Byte) : (s.store sp i bs).state = s.state := by cases sp <;> rfl
@[simp] theorem store_txPtr (sp : Space) (i : Nat) (bs : List Byte) : (s.store sp i bs).txPtr = s.txPtr := by cases sp <;> rfl
@[simp] theorem store_txLen (sp : Space) (i : Nat) (bs : List Byte) : (s.store sp i bs).txLen = s.txLen := by cases sp <;> rfl
@[simp] theorem store_txRem (sp : Space) (i : Nat) (bs : List Byte) : (s.store sp i bs).txRem = s.txRem := by cases sp <;> rfl
@[simp] theorem store_wrL (sp : Space) (i : Nat) (bs : List Byte) : (s.store sp i bs).wrL = s.wrL := by cases sp <;> rfl
@[simp] theorem store_pad (sp : Space) (i : Nat) (bs : List Byte) : (s.store sp i bs).pad = s.pad := by cases sp <;> rfl
@[simp] theorem store_txTot (sp : Space) (i : Nat) (bs : List Byte) : (s.store sp i bs).txTot = s.txTot := by cases sp <;> rfl
@[simp] theorem store_rxKind (sp : Space) (i : Nat) (bs : List Byte) : (s.store sp i bs).rxKind = s.rxKind := by cases sp <;> rfl
@[simp] theorem store_rxLen (sp : Space) (i : Nat) (bs : List Byte) : (s.store sp i bs).rxLen = s.rxLen := by cases sp <;> rfl
@[simp] theorem store_rxN (sp : Space) (i : Nat) (bs : List Byte) : (s.store sp i bs).rxN = s.rxN := by cases sp <;> rfl
@[simp] theorem store_rxRem (sp : Space) (i : Nat) (bs : List Byte) : (s.store sp i bs).rxRem = s.rxRem := by cases sp <;> rfl
@[simp] theorem store_lvl (sp : Space) (i : Nat) (bs : List Byte) : (s.store sp i bs).lvl = s.lvl := by cases sp <;> rfl
@[simp] theorem store_wpc (sp : Space) (i : Nat) (bs : List Byte) : (s.store sp i bs).wpc = s.wpc := by cases sp <;> rfl
@[simp] theorem store_ipc (sp : Space) (i : Nat) (bs : List Byte) : (s.store sp i bs).ipc = s.ipc := by cases sp <;> rfl
@[simp] theorem store_cs (sp : Space) (i : Nat) (bs : List Byte) : (s.store sp i bs).cs = s.cs := by cases sp <;> rfl
@[simp] theorem store_irqEn (sp : Space) (i : Nat) (bs : List Byte) : (s.store sp i bs).irqEn = s.irqEn := by cases sp <;> rfl
@[simp] theorem store_irqPend (sp : Space) (i : Nat) (bs : List Byte) : (s.store sp i bs).irqPend = s.irqPend := by cases sp <;> rfl
@[simp] theorem store_irqMeta (sp : Space) (i : Nat) (bs : List Byte) : (s.store sp i bs).irqMeta = s.irqMeta := by cases sp <;> rfl
@[simp] theorem store_irqChain (sp : Space) (i : Nat) (bs : List Byte) : (s.store sp i bs).irqChain = s.irqChain := by cases sp <;> rfl
@[simp] theorem store_irqS (sp : Space) (i : Nat) (bs : List Byte) : (s.store sp i bs).irqS = s.irqS := by cases sp <;> rfl
@[simp] theorem store_irqPrev (sp : Space) (i : Nat) (bs : List Byte) : (s.store sp i bs).irqPrev = s.irqPrev := by cases sp <;> rfl
@[simp] theorem store_halted (sp : Space) (i : Nat) (bs : List Byte) : (s.store sp i bs).halted = s.halted := by cases sp <;> rfl
@[simp] theorem store_xReq (sp : Space) (i : Nat) (bs : List Byte) : (s.store sp i bs).xReq = s.xReq := by cases sp <;> rfl
@[simp] theorem store_xOut (sp : Space) (i : Nat) (bs : List Byte) : (s.store sp i bs).xOut = s.xOut := by cases sp <;> rfl
@[simp] theorem store_xIn (sp : Space) (i : Nat) (bs : List Byte) : (s.store sp i bs).xIn = s.xIn := by cases sp <;> rfl
@[simp] theorem store_dReq (sp : Space) (i : Nat) (bs : List Byte) : (s.store sp i bs).dReq = s.dReq := by cases sp <;> rfl
@[simp] theorem store_dUs (sp : Space) (i : Nat) (bs : List Byte) : (s.store sp i bs).dUs = s.dUs := by cases sp <;> rfl
@[simp] theorem store_sValid (sp : Space) (i : Nat) (bs : List Byte) : (s.store sp i bs).sValid = s.sValid := by cases sp <;> rfl
@[simp] theorem store_sPtr (sp : Space) (i : Nat) (bs : List Byte) : (s.store sp i bs).sPtr = s.sPtr := by cases sp <;> rfl
@[simp] theorem store_sLen (sp : Space) (i : Nat) (bs : List Byte) : (s.store sp i bs).sLen = s.sLen := by cases sp <;> rfl
@[simp] theorem store_txOpen (sp : Space) (i : Nat) (bs : List Byte) : (s.store sp i bs).txOpen = s.txOpen := by cases sp <;> rfl
@[simp] theorem store_rxOpen (sp : Space) (i : Nat) (bs : List Byte) : (s.store sp i bs).rxOpen = s.rxOpen := by cases sp <;> rfl
@[simp] theorem store_uop (sp : Space) (i : Nat) (bs : List Byte) : (s.store sp i bs).uop = s.uop := by cases sp <;> rfl
@[simp] theorem store_epoch (sp : Space) (i : Nat) (bs : List Byte) : (s.store sp i bs).epoch = s.epoch := by cases sp <;> rfl
@[simp] theorem store_free (sp : Space) (i : Nat) (bs : List Byte) : (s.store sp i bs).free = s.free := by cases sp <;> rfl
@[simp] theorem store_trace (sp : Space) (i : Nat) (bs : List Byte) : (s.store sp i bs).trace = s.trace := by cases sp <;> rfl
@[simp] theorem store_env (sp : Space) (i : Nat) (bs : List Byte) : (s.store sp i bs).env = s.env := by cases sp <;> rfl
@[simp] theorem store_tx_tx (i : Nat) (bs : List Byte) : (s.store .tx i bs).tx = s.tx.writeBytes i bs := rfl
@[simp] theorem store_tx_rx (i : Nat) (bs : List Byte) : (s.store .tx i bs).rx = s.rx := rfl
@[simp] theorem store_rx_rx (i : Nat) (bs : List Byte) : (s.store .rx i bs).rx = s.rx.writeBytes i bs := rfl
@[simp] theorem store_rx_tx (i : Nat) (bs : List Byte) : (s.store .rx i bs).tx = s.tx := rfl
@[simp] theorem mem_tx : s.mem .tx = s.tx := rfl
@[simp] theorem mem_rx : s.mem .rx = s.rx := rfl
@[simp] theorem cap_tx : s.cap .tx = s.cfg.txCap := rfl
@[simp] theorem cap_rx : s.cap .rx = s.cfg.rxCap := rfl

end Sys2Proof.Machine
end

