-- ==== Sys2Proof/Laws/Memory.lean ====
section
/-! SUPPORT. The buffers: read after write, the canonical form, and what a store leaves of a byte. -/

namespace Sys2Proof.Machine

theorem Memory.read_write (m : Memory) (i j : Nat) (v : Byte) :
    Memory.read? (m.write i v) j = if i = j then some v else Memory.read? m j := by
  induction m with
  | nil => rfl
  | cons cell rest ih =>
    obtain ⟨a, b⟩ := cell
    simp only [Memory.write]
    split
    · rfl
    · split
      · subst_vars
        simp only [Memory.read?]
        split <;> rfl
      · simp only [Memory.read?, ih]
        split <;> split <;> first | rfl | omega

@[simp] theorem Memory.read_write_same (m : Memory) (i : Nat) (v : Byte) :
    Memory.read? (m.write i v) i = some v := by simp [Memory.read_write]

theorem Memory.read_write_other (m : Memory) {i j : Nat} (v : Byte) (h : i ≠ j) :
    Memory.read? (m.write i v) j = Memory.read? m j := by simp [Memory.read_write, h]

theorem Memory.read_writeBytes (m : Memory) (i j : Nat) (bs : List Byte) :
    Memory.read? (m.writeBytes i bs) j =
      if i ≤ j ∧ j < i + bs.length then bs[j - i]? else Memory.read? m j := by
  induction bs generalizing m i with
  | nil =>
    rw [if_neg (by simp only [List.length_nil]; omega)]
    rfl
  | cons b bs ih =>
    simp only [Memory.writeBytes, ih, Memory.read_write, List.length_cons]
    by_cases hij : i = j
    · subst hij
      have h1 : ¬(i + 1 ≤ i ∧ i < i + 1 + bs.length) := by omega
      rw [if_neg h1, if_pos rfl, if_pos (by omega), Nat.sub_self]; rfl
    · by_cases hin : i + 1 ≤ j ∧ j < i + 1 + bs.length
      · have h2 : i ≤ j ∧ j < i + (bs.length + 1) := by omega
        have h3 : j - i = (j - (i + 1)) + 1 := by omega
        rw [if_pos hin, if_pos h2, h3, List.getElem?_cons_succ]
      · have h2 : ¬(i ≤ j ∧ j < i + (bs.length + 1)) := by omega
        rw [if_neg hin, if_neg h2, if_neg hij]

/-- The head of a canonical memory lies below what follows. -/
theorem Memory.wf_cons {a : Host.Cell} {m : Memory} :
    Memory.wf (a :: m) = true ↔ Memory.wf m = true ∧ ∀ c ∈ m, a.1 < c.1 := by
  induction m generalizing a with
  | nil => simp [Memory.wf]
  | cons b rest ih =>
    simp only [Memory.wf, Bool.and_eq_true, decide_eq_true_eq, List.mem_cons, forall_eq_or_imp]
    constructor
    · rintro ⟨hab, hb⟩
      exact ⟨hb, hab, fun c hc => Nat.lt_trans hab ((ih.mp hb).2 c hc)⟩
    · rintro ⟨hb, hab, _⟩
      exact ⟨hab, hb⟩

theorem Memory.mem_write {m : Memory} {i : Nat} {v : Byte} {c : Host.Cell} (h : c ∈ m.write i v) :
    c = (i, v) ∨ c ∈ m := by
  induction m with
  | nil => simpa [Memory.write] using h
  | cons cell rest ih =>
    obtain ⟨a, b⟩ := cell
    simp only [Memory.write] at h
    split at h
    · simpa using h
    · split at h
      · rcases List.mem_cons.mp h with h | h
        · exact .inl h
        · exact .inr (List.mem_cons_of_mem _ h)
      · rcases List.mem_cons.mp h with h | h
        · exact .inr (h ▸ List.mem_cons_self)
        · exact (ih h).imp id (List.mem_cons_of_mem _)

/-- A write keeps the canonical form. -/
theorem Memory.wf_write {m : Memory} (i : Nat) (v : Byte) (h : Memory.wf m = true) :
    Memory.wf (m.write i v) = true := by
  induction m with
  | nil => rfl
  | cons cell rest ih =>
    obtain ⟨a, b⟩ := cell
    obtain ⟨hr, hlt⟩ := Memory.wf_cons.mp h
    simp only [Memory.write]
    split
    · next hia =>
      refine Memory.wf_cons.mpr ⟨h, fun c hc => ?_⟩
      rcases List.mem_cons.mp hc with rfl | hc
      · exact hia
      · exact Nat.lt_trans hia (hlt c hc)
    · split
      · next hia =>
        subst hia
        exact Memory.wf_cons.mpr ⟨hr, hlt⟩
      · refine Memory.wf_cons.mpr ⟨ih hr, fun c hc => ?_⟩
        rcases Memory.mem_write hc with rfl | hc
        · show a < i; omega
        · exact hlt c hc

/-- Storing bytes keeps the canonical form. -/
theorem Memory.wf_writeBytes {m : Memory} (i : Nat) (bs : List Byte) (h : Memory.wf m = true) :
    Memory.wf (m.writeBytes i bs) = true := by
  induction bs generalizing m i with
  | nil => exact h
  | cons b bs ih => exact ih (i + 1) (Memory.wf_write i b h)

theorem Memory.mem_writeBytes {m : Memory} {i : Nat} {bs : List Byte} {c : Host.Cell}
    (h : c ∈ m.writeBytes i bs) : (i ≤ c.1 ∧ c.1 < i + bs.length) ∨ c ∈ m := by
  induction bs generalizing m i with
  | nil => exact .inr h
  | cons b bs ih =>
    rcases ih h with h | h
    · left; simp only [List.length_cons]; omega
    · rcases Memory.mem_write h with rfl | h
      · left; simp
      · exact .inr h

/-- The byte of a buffer after a store to the same buffer. -/
theorem bufByte_store (s : State) (sp : Space) (i j : Nat) (bs : List Byte) :
    (s.store sp i bs).bufByte sp j =
      if i ≤ j ∧ j < i + bs.length then bs.getD (j - i) 0 else s.bufByte sp j := by
  have key : ((s.store sp i bs).mem sp) = (s.mem sp).writeBytes i bs := by cases sp <;> rfl
  simp only [State.bufByte, key, store_epoch, Memory.read_writeBytes]
  split
  · next h =>
    have : j - i < bs.length := by omega
    simp [List.getElem?_eq_getElem this]
  · rfl

/-- A store to one buffer leaves the other. -/
theorem bufByte_store_other (s : State) {sp sp' : Space} (i j : Nat) (bs : List Byte) (h : sp ≠ sp') :
    (s.store sp i bs).bufByte sp' j = s.bufByte sp' j := by
  cases sp <;> cases sp' <;> first | exact absurd rfl h | rfl

end Sys2Proof.Machine
end

