-- ==== Sys2Proof/Laws/Ops.lean ====
section
/-! SUPPORT. What each shared operation can do, said once: equations and case lemmas that later proofs cite instead of
unfolding the operation. -/

namespace Sys2Proof.Machine

/-! ## Results -/

@[simp] theorem andThen_next (f : State → State) (s : State) : andThen f (.next s) = .next (f s) := rfl
@[simp] theorem andThen_fault (f : State → State) (r : Fault) : andThen f (.fault r) = .fault r := rfl
@[simp] theorem andThen_refused (f : State → State) (r : Refusal) : andThen f (.refused r) = .refused r := rfl

/-- A change applied to a result gives a next state only from a next state. -/
theorem andThen_eq_next {f : State → State} {r : Result} {t : State} :
    andThen f r = .next t ↔ ∃ u, r = .next u ∧ f u = t := by
  cases r <;> simp [andThen]

/-! ## Chip-select (40_bus_driver.md R121, R122) -/

theorem csAssert_eq (s : State) :
    csAssert s = { s with cs := true, trace := if s.cs then s.trace else .csUp :: s.trace } := by
  unfold csAssert
  split
  · next h => cases s; cases h; simp
  · simp_all [emit]

theorem csDeassert_eq (s : State) :
    csDeassert s = { s with cs := false, trace := if s.cs then .csDown :: s.trace else s.trace } := by
  unfold csDeassert
  split
  · simp_all [emit]
  · next h =>
    have h : s.cs = false := by simpa using h
    cases s; cases h; simp

/-! ## Handshakes -/

/-- An exchange without an acknowledgement leaves the request standing (R110). -/
theorem pollXchg_wait {s : State} (h : s.env.answer? = none) : pollXchg s = s := by simp [pollXchg, h]

/-- An acknowledged exchange (R123). -/
theorem pollXchg_ack {s : State} {r : Byte} {rest : List Byte} (h : s.env.answer? = some (r, rest)) :
    pollXchg s = { s with xReq := false, xIn := r, env := { s.env with replies := rest },
                          trace := .exchange s.xOut r :: s.trace } := by
  simp [pollXchg, h, emit]

theorem answer_listed {e : Env} {r : Byte} {rest : List Byte} (h : e.replies = r :: rest) :
    e.answer? = some (r, rest) := by simp [Env.answer?, h]

theorem answer_unlisted {e : Env} (h : e.replies = []) : e.answer? = e.xAuto.map fun r => (r, []) := by
  simp [Env.answer?, h]

/-- The two outcomes of one attempt at an exchange (R123): the byte sent is that of the request that stands. -/
theorem xchg_cases (b : Byte) (s : State) :
    (s.env.answer? = none ∧ xchg b s = { s with xReq := true, xOut := if s.xReq then s.xOut else b }) ∨
    (∃ r rest, s.env.answer? = some (r, rest) ∧
      xchg b s = { s with xReq := false, xOut := if s.xReq then s.xOut else b, xIn := r,
                          env := { s.env with replies := rest },
                          trace := .exchange (if s.xReq then s.xOut else b) r :: s.trace }) := by
  have key : (if s.xReq then s else { s with xReq := true, xOut := b }) =
      { s with xReq := true, xOut := if s.xReq then s.xOut else b } := by
    split
    · next h => cases s; cases h; simp
    · simp
  unfold xchg
  rw [key]
  cases h : s.env.answer? with
  | none => exact .inl ⟨rfl, pollXchg_wait h⟩
  | some a => exact .inr ⟨a.1, a.2, rfl, pollXchg_ack h⟩

/-- The two outcomes of one attempt at a delay (R124). -/
theorem delayUs_cases (n : Half) (s : State) :
    delayUs n s = { s with
      dReq := !s.env.timer.acks
      dUs := if s.dReq then s.dUs else n
      trace := if s.dReq then s.trace else .delay n :: s.trace
      env := if s.env.timer.acks then { s.env with timer := s.env.timer.taken } else s.env } := by
  unfold delayUs
  by_cases hd : s.dReq = true
  · by_cases ha : s.env.timer.acks = true
    · simp [hd, ha]
    · rw [Bool.not_eq_true] at ha
      cases s; cases hd; simp [ha]
  · by_cases ha : s.env.timer.acks = true <;> simp [hd, ha, emit]

/-- The two outcomes of one attempt at a delivery (43_transport_read.md R205). -/
theorem deliver_cases (ptr : Nat) (len : Half) (s : State) :
    deliver ptr len s = { s with
      sValid := !s.env.sink.acks
      sPtr := if s.sValid then s.sPtr else ptr
      sLen := if s.sValid then s.sLen else len
      trace := if s.sValid then s.trace else .deliver ptr len :: s.trace
      env := if s.env.sink.acks then { s.env with sink := s.env.sink.taken } else s.env } := by
  unfold deliver
  by_cases hd : s.sValid = true
  · by_cases ha : s.env.sink.acks = true
    · simp [hd, ha]
    · rw [Bool.not_eq_true] at ha
      cases s; cases hd; simp [ha]
  · by_cases ha : s.env.sink.acks = true <;> simp [hd, ha, emit]

/-! ## The shuttles (R126, R127) -/

/-- The state of a transmit shuttle whose cursor is loaded. -/
def loadTx (n : Count) (s : State) : State := if s.txOpen then s else { s with txOpen := true, txRem := n }

/-- The state of a receive shuttle whose cursor is loaded. -/
def loadRx (n : Count) (s : State) : State := if s.rxOpen then s else { s with rxOpen := true, rxRem := n }

theorem loadTx_open {n : Count} {s : State} (h : s.txOpen = true) : loadTx n s = s := by simp [loadTx, h]
theorem loadTx_closed {n : Count} {s : State} (h : s.txOpen = false) :
    loadTx n s = { s with txOpen := true, txRem := n } := by simp [loadTx, h]
theorem loadRx_open {n : Count} {s : State} (h : s.rxOpen = true) : loadRx n s = s := by simp [loadRx, h]
theorem loadRx_closed {n : Count} {s : State} (h : s.rxOpen = false) :
    loadRx n s = { s with rxOpen := true, rxRem := n } := by simp [loadRx, h]

/-- Raising the exchange of a byte of TX changes the request, its byte and the count of foreign loads only. -/
theorem raiseFromTx_eq (i : Nat) (s : State) :
    raiseFromTx i s = { s with
      xReq := true
      xOut := if s.xReq then s.xOut else if i ≤ s.cfg.txCap then s.bufByte .tx i else Config.extByte s.free
      free := if s.xReq then s.free else if i ≤ s.cfg.txCap then s.free else s.free + 1 } := by
  unfold raiseFromTx
  split
  · next h => cases s; cases h; simp
  · split <;> simp_all

/-- One micro-step of a transmit shuttle: it closes with nothing left, or waits for the byte engine, or has exchanged
one byte. -/
theorem shuttleTx_cases (base : Nat) (n : Count) (s : State) :
    ((loadTx n s).txRem = 0 ∧ shuttleTx base n s = { loadTx n s with txOpen := false }) ∨
    ((loadTx n s).txRem ≠ 0 ∧ s.env.answer? = none ∧
      shuttleTx base n s = raiseFromTx (base + cursor n (loadTx n s).txRem) (loadTx n s)) ∨
    (∃ r rest, (loadTx n s).txRem ≠ 0 ∧ s.env.answer? = some (r, rest) ∧
      shuttleTx base n s =
        { raiseFromTx (base + cursor n (loadTx n s).txRem) (loadTx n s) with
          xReq := false
          xIn := r
          env := { s.env with replies := rest }
          trace := .exchange (raiseFromTx (base + cursor n (loadTx n s).txRem) (loadTx n s)).xOut r :: s.trace
          txRem := (loadTx n s).txRem - 1
          txOpen := (loadTx n s).txRem - 1 != 0 }) := by
  have henv : (loadTx n s).env = s.env := by unfold loadTx; split <;> rfl
  have htr : (loadTx n s).trace = s.trace := by unfold loadTx; split <;> rfl
  have hunf : shuttleTx base n s = if (loadTx n s).txRem = 0 then { loadTx n s with txOpen := false } else
      (if (pollXchg (raiseFromTx (base + cursor n (loadTx n s).txRem) (loadTx n s))).xReq then
        pollXchg (raiseFromTx (base + cursor n (loadTx n s).txRem) (loadTx n s))
      else
        { pollXchg (raiseFromTx (base + cursor n (loadTx n s).txRem) (loadTx n s)) with
          txRem := (pollXchg (raiseFromTx (base + cursor n (loadTx n s).txRem) (loadTx n s))).txRem - 1
          txOpen :=
            (pollXchg (raiseFromTx (base + cursor n (loadTx n s).txRem) (loadTx n s))).txRem - 1 != 0 }) := rfl
  by_cases hr : (loadTx n s).txRem = 0
  · exact .inl ⟨hr, by rw [hunf, if_pos hr]⟩
  · right
    rw [hunf, if_neg hr]
    generalize loadTx n s = u at *
    cases ha : s.env.answer? with
    | none =>
      left
      have : (raiseFromTx (base + cursor n u.txRem) u).env.answer? = none := by
        rw [raiseFromTx_eq]; simpa [henv] using ha
      rw [pollXchg_wait this, if_pos (by rw [raiseFromTx_eq])]
      exact ⟨hr, rfl, rfl⟩
    | some a =>
      right
      obtain ⟨r, rest⟩ := a
      have : (raiseFromTx (base + cursor n u.txRem) u).env.answer? = some (r, rest) := by
        rw [raiseFromTx_eq]; simpa [henv] using ha
      refine ⟨r, rest, hr, rfl, ?_⟩
      rw [pollXchg_ack this]
      simp [raiseFromTx_eq, henv, htr]

/-- The two outcomes of storing a received byte (20_memory.md R67). -/
theorem storeReceived_cases (i : Nat) (v : Byte) (s : State) :
    (i ≤ s.cfg.rxCap ∧ storeReceived i v s = .next { s with rx := s.rx.write i v }) ∨
    (s.cfg.rxCap < i ∧ storeReceived i v s = .fault .rxOverrun) := by
  unfold storeReceived
  split
  · exact .inl ⟨‹_›, rfl⟩
  · exact .inr ⟨by omega, rfl⟩

/-- One micro-step of a receive shuttle: it closes with nothing left, or waits, or has stored one byte, or faults on a
store above the guard. -/
theorem shuttleRx_cases (base : Nat) (n k0 : Count) (s : State) :
    ((loadRx n s).rxRem = 0 ∧ shuttleRx base n k0 s = .next { loadRx n s with rxOpen := false }) ∨
    ((loadRx n s).rxRem ≠ 0 ∧ s.env.answer? = none ∧
      shuttleRx base n k0 s =
        .next (xchg (rdTxAt s.cfg (k0.toNat + cursor n (loadRx n s).rxRem)) (loadRx n s))) ∨
    (∃ r rest, (loadRx n s).rxRem ≠ 0 ∧ s.env.answer? = some (r, rest) ∧
      base + cursor n (loadRx n s).rxRem ≤ s.cfg.rxCap ∧
      shuttleRx base n k0 s = .next
        { xchg (rdTxAt s.cfg (k0.toNat + cursor n (loadRx n s).rxRem)) (loadRx n s) with
          rx := s.rx.write (base + cursor n (loadRx n s).rxRem) r
          rxRem := (loadRx n s).rxRem - 1
          rxOpen := (loadRx n s).rxRem - 1 != 0 }) ∨
    ((loadRx n s).rxRem ≠ 0 ∧ s.env.answer? ≠ none ∧
      s.cfg.rxCap < base + cursor n (loadRx n s).rxRem ∧ shuttleRx base n k0 s = .fault .rxOverrun) := by
  have henv : (loadRx n s).env = s.env := by unfold loadRx; split <;> rfl
  have hcfg : (loadRx n s).cfg = s.cfg := by unfold loadRx; split <;> rfl
  have hrx : (loadRx n s).rx = s.rx := by unfold loadRx; split <;> rfl
  have hunf : shuttleRx base n k0 s = if (loadRx n s).rxRem = 0 then .next { loadRx n s with rxOpen := false } else
      (if (xchg (rdTxAt (loadRx n s).cfg (k0.toNat + cursor n (loadRx n s).rxRem)) (loadRx n s)).xReq then
        .next (xchg (rdTxAt (loadRx n s).cfg (k0.toNat + cursor n (loadRx n s).rxRem)) (loadRx n s))
      else andThen (fun s => { s with rxRem := s.rxRem - 1, rxOpen := s.rxRem - 1 != 0 })
        (storeReceived (base + cursor n (loadRx n s).rxRem)
          (xchg (rdTxAt (loadRx n s).cfg (k0.toNat + cursor n (loadRx n s).rxRem)) (loadRx n s)).xIn
          (xchg (rdTxAt (loadRx n s).cfg (k0.toNat + cursor n (loadRx n s).rxRem)) (loadRx n s)))) := rfl
  by_cases hr : (loadRx n s).rxRem = 0
  · exact .inl ⟨hr, by rw [hunf, if_pos hr]⟩
  · right
    rw [hunf, if_neg hr]
    generalize loadRx n s = u at *
    rw [hcfg]
    rcases xchg_cases (rdTxAt s.cfg (k0.toNat + cursor n u.rxRem)) u with ⟨ha, hx⟩ | ⟨r, rest, ha, hx⟩
    · left
      rw [if_pos (by rw [hx])]
      exact ⟨hr, henv ▸ ha, rfl⟩
    · right
      rw [if_neg (by rw [hx]; simp)]
      rcases storeReceived_cases (base + cursor n u.rxRem)
          (xchg (rdTxAt s.cfg (k0.toNat + cursor n u.rxRem)) u).xIn
          (xchg (rdTxAt s.cfg (k0.toNat + cursor n u.rxRem)) u) with ⟨hi, hs⟩ | ⟨hi, hs⟩
      · left
        refine ⟨r, rest, hr, henv ▸ ha, ?_, ?_⟩
        · rw [hx] at hi; simpa [hcfg] using hi
        · rw [hs, hx]; simp [hrx]
      · right
        refine ⟨hr, ?_, ?_, ?_⟩
        · rw [← henv, ha]; simp
        · rw [hx] at hi; simpa [hcfg] using hi
        · rw [hs]; rfl

/-! ## The guard comparison (60_exceptions.md R222) -/

theorem checkGuard_pass {sp : Space} {s : State} (site : Site) (h : s.guardByte sp = s.cfg.sentinel) :
    checkGuard sp site s = s := by simp [checkGuard, guardOk, h]

theorem checkGuard_fail {sp : Space} {s : State} (site : Site) (h : s.guardByte sp ≠ s.cfg.sentinel) :
    checkGuard sp site s = { s with halted := true, trace := .halt site :: s.trace } := by
  simp [checkGuard, guardOk, h, raiseCorruption, emit]

/-! ## The request line -/

/-- A chain that holds one value shifts into itself. -/
theorem syncShift_replicate (v : Bool) (n : Nat) : syncShift v (List.replicate n v) = List.replicate n v := by
  have : v :: List.replicate n v = List.replicate (n + 1) v := rfl
  rw [syncShift, this, List.dropLast_replicate]
  rfl

theorem syncShift_length (v : Bool) (chain : List Bool) : (syncShift v chain).length = chain.length := by
  simp [syncShift]

theorem syncOut_replicate (v : Bool) (n : Nat) : syncOut v (List.replicate n v) = v := by
  have : v :: List.replicate n v = List.replicate (n + 1) v := rfl
  rw [syncOut, this, List.getLast?_replicate]
  simp

/-- Clock edges touch the synchroniser, the previous sample and the pending bit only. -/
theorem clockEdges_frame (level : Bool) (n : Nat) (s : State) :
    clockEdges level n s = { s with
      irqMeta := (clockEdges level n s).irqMeta
      irqChain := (clockEdges level n s).irqChain
      irqS := (clockEdges level n s).irqS
      irqPrev := (clockEdges level n s).irqPrev
      irqPend := (clockEdges level n s).irqPend } := by
  induction n generalizing s with
  | zero => rfl
  | succ n ih =>
    rw [clockEdges, ih (clockEdge level s)]
    rfl

/-- A pending edge stays pending over clock edges (41_irq_sync.md R144). -/
theorem clockEdges_pending {level : Bool} {n : Nat} {s : State} (h : s.irqPend = true) :
    (clockEdges level n s).irqPend = true := by
  induction n generalizing s with
  | zero => exact h
  | succ n ih => exact ih (by simp [clockEdge, pendNext, h])

/-- Nothing is recorded while the signal is disabled (R144). -/
theorem clockEdges_disabled {level : Bool} {n : Nat} {s : State} (h : s.irqEn = false) :
    (clockEdges level n s).irqPend = s.irqPend := by
  induction n generalizing s with
  | zero => rfl
  | succ n ih => rw [clockEdges, ih (by simpa [clockEdge] using h)]; simp [clockEdge, pendNext, h]

/-! ## Commands -/

theorem hostCommand_ready {cmd : BitVec 2} {len : Half} {effect : State → State} {s : State}
    (h : s.cmdReady = true) : hostCommand cmd len effect s = effect (withdraw s) := by simp [hostCommand, h]

theorem hostCommand_held {cmd : BitVec 2} {len : Half} {effect : State → State} {s : State}
    (h : s.cmdReady = false) : hostCommand cmd len effect s = present cmd len s := by simp [hostCommand, h]

theorem cmdReady_iff (s : State) :
    s.cmdReady = true ↔ s.wpc = .rest ∧ s.ipc = .rest ∧ s.irqPend = false ∧ s.halted = false := by
  simp [State.cmdReady, and_assoc]

/-- The two outcomes of a host store (30_encoding.md R109). -/
theorem hostStore_cases (sp : Space) (i : Nat) (bs : List Byte) (s : State) :
    (i + bs.length ≤ s.cap sp + 1 ∧ hostStore sp i bs s = .next (if s.halted then s else s.store sp i bs)) ∨
    (s.cap sp + 1 < i + bs.length ∧ hostStore sp i bs s = .refused .bufferIndex) := by
  unfold hostStore
  split
  · exact .inl ⟨‹_›, rfl⟩
  · exact .inr ⟨by omega, rfl⟩

/-- A halted block keeps every buffer byte (60_exceptions.md R221). -/
theorem hostStore_halted {sp : Space} {i : Nat} {bs : List Byte} {s : State} (hh : s.halted = true)
    (h : i + bs.length ≤ s.cap sp + 1) : hostStore sp i bs s = .next s := by simp [hostStore, h, hh]

/-! ## The canonical form of the buffers -/

theorem reset_memory_wf : Memory.wf State.reset.tx = true ∧ Memory.wf State.reset.rx = true := ⟨rfl, rfl⟩

/-- A store keeps the canonical form of both buffers. -/
theorem store_wf {s : State} (sp : Space) (i : Nat) (bs : List Byte)
    (h : Memory.wf s.tx = true ∧ Memory.wf s.rx = true) :
    Memory.wf (s.store sp i bs).tx = true ∧ Memory.wf (s.store sp i bs).rx = true := by
  cases sp
  · exact ⟨Memory.wf_writeBytes i bs h.1, h.2⟩
  · exact ⟨h.1, Memory.wf_writeBytes i bs h.2⟩

theorem storeReceived_wf {s t : State} {i : Nat} {v : Byte} (h : Memory.wf s.tx = true ∧ Memory.wf s.rx = true)
    (ht : storeReceived i v s = .next t) : Memory.wf t.tx = true ∧ Memory.wf t.rx = true := by
  rcases storeReceived_cases i v s with ⟨_, hs⟩ | ⟨_, hs⟩
  · rw [hs] at ht; cases ht; exact ⟨h.1, Memory.wf_write i v h.2⟩
  · rw [hs] at ht; cases ht

end Sys2Proof.Machine
end

