-- ==== Sys2Proof/Laws/PerInstr.lean ====
section
/-! SUPPORT. Family `Opcode`: the first byte of every operation's encoding holds its code space and the code that
spec/opcode_table.json gives it. -/

namespace Sys2Proof.Laws.Opcode

set_option Elab.async false

/-- The code space: 0 micro-operations, 1 host commands, 2 interrupt dispatch, 3 write header, 4 read header,
5 pseudo-actions (log 15). -/
def space : Instr → Nat
  | .nocmd | .init | .submitWrite _ | .cmdReserved => 1
  | .onIrqPowerup | .onIrqOther _ | .onIrqIdle | .onIrqWriteirq => 2
  | .wrframe _ _ _ => 3
  | .rdframeData _ | .rdframeEvent _ | .rdframeOther _ => 4
  | .edge | .frameIn _ | .write _ _ => 5
  | .csAssert | .csDeassert | .xchg _ | .delayUs _ | .irqEn | .irqDis | .irqLvl | .deliver _ _ => 0
  | .checkGuard _ _ | .buildHdr _ | .decodeHdr | .shuttleTx _ _ | .shuttleRx _ _ _ | .uopNone => 0

/-- The code in the column "match" of the table (R107, R21, R113); for the rows without one, their place. -/
def code : Instr → Nat
  | .nocmd => 0
  | .init => 1
  | .submitWrite _ => 2
  | .cmdReserved => 3
  | .onIrqPowerup => 0
  | .onIrqOther c => c.toNat
  | .onIrqIdle => 2
  | .onIrqWriteirq => 3
  | .csAssert => 1
  | .csDeassert => 2
  | .xchg _ => 3
  | .delayUs _ => 4
  | .irqEn => 5
  | .irqDis => 6
  | .irqLvl => 7
  | .deliver _ _ => 8
  | .checkGuard _ _ => 9
  | .buildHdr _ => 10
  | .decodeHdr => 11
  | .shuttleTx _ _ => 12
  | .shuttleRx _ _ _ => 13
  | .uopNone => 0
  | .wrframe _ _ _ => 0
  | .rdframeData _ | .rdframeEvent _ | .rdframeOther _ => 0
  | .edge => 0
  | .frameIn _ => 1
  | .write _ _ => 2

/-- The first byte of the encoding. -/
def Statement (i : Instr) : Prop := (encode i).head?.map BitVec.toNat = some (16 * space i + code i)

theorem nocmd : Statement .nocmd := by simp [Statement, encode, opByte, space, code]
theorem init : Statement .init := by simp [Statement, encode, opByte, space, code]
theorem submitWrite (len : Half) : Statement (.submitWrite len) := by simp [Statement, encode, opByte, space, code]
theorem cmdReserved : Statement .cmdReserved := by simp [Statement, encode, opByte, space, code]
theorem onIrqPowerup : Statement .onIrqPowerup := by simp [Statement, encode, opByte, space, code]
theorem onIrqOther (c : BitVec 4) : Statement (.onIrqOther c) := by
  have := c.isLt
  simp only [Statement, encode, opByte, List.head?_cons, Option.map_some, BitVec.toNat_ofNat, space, code]
  congr 1; omega
theorem onIrqIdle : Statement .onIrqIdle := by simp [Statement, encode, opByte, space, code]
theorem onIrqWriteirq : Statement .onIrqWriteirq := by simp [Statement, encode, opByte, space, code]
theorem csAssert : Statement .csAssert := by simp [Statement, encode, opByte, space, code]
theorem csDeassert : Statement .csDeassert := by simp [Statement, encode, opByte, space, code]
theorem xchg (b : Byte) : Statement (.xchg b) := by simp [Statement, encode, opByte, space, code]
theorem delayUs (n : Half) : Statement (.delayUs n) := by simp [Statement, encode, opByte, space, code]
theorem irqEn : Statement .irqEn := by simp [Statement, encode, opByte, space, code]
theorem irqDis : Statement .irqDis := by simp [Statement, encode, opByte, space, code]
theorem irqLvl : Statement .irqLvl := by simp [Statement, encode, opByte, space, code]
theorem deliver (ptr : Nat) (len : Half) : Statement (.deliver ptr len) := by simp [Statement, encode, opByte, space, code]
theorem checkGuard (sp : Space) (site : Site) : Statement (.checkGuard sp site) := by simp [Statement, encode, opByte, space, code]
theorem buildHdr (len : Half) : Statement (.buildHdr len) := by simp [Statement, encode, opByte, space, code]
theorem decodeHdr : Statement .decodeHdr := by simp [Statement, encode, opByte, space, code]
theorem shuttleTx (base : Nat) (n : Count) : Statement (.shuttleTx base n) := by simp [Statement, encode, opByte, space, code]
theorem shuttleRx (base : Nat) (n k0 : Count) : Statement (.shuttleRx base n k0) := by simp [Statement, encode, opByte, space, code]
theorem uopNone : Statement .uopNone := by simp [Statement, encode, opByte, space, code]
theorem wrframe (tag lengthHi lengthLo : Byte) : Statement (.wrframe tag lengthHi lengthLo) := by simp [Statement, encode, opByte, space, code]
theorem rdframeData (h : List Byte) : Statement (.rdframeData h) := by simp [Statement, encode, opByte, space, code]
theorem rdframeEvent (h : List Byte) : Statement (.rdframeEvent h) := by simp [Statement, encode, opByte, space, code]
theorem rdframeOther (h : List Byte) : Statement (.rdframeOther h) := by simp [Statement, encode, opByte, space, code]
theorem edge : Statement .edge := by simp [Statement, encode, opByte, space, code]
theorem frameIn (bytes : List Byte) : Statement (.frameIn bytes) := by simp [Statement, encode, opByte, space, code]
theorem write (len : Half) (payload : List Byte) : Statement (.write len payload) := by simp [Statement, encode, opByte, space, code]

end Sys2Proof.Laws.Opcode
end

