-- ==== Sys2Proof/Laws/Step.lean ====
section
/-! SUPPORT. Which agent moves at a step boundary, one lemma per case, and the inversions of the sequencers' glue. -/

namespace Sys2Proof.Machine

/-! ## The script -/

/-- With no script left HDST moves. -/
theorem step_alone {s : State} (h : s.env.script = []) : step s = seqStep s := by
  simp [step, stepBoundary, h]

/-- An item that is not due is no obstacle. -/
theorem step_notDue {s : State} {item : Item} {rest : List Item} (h : s.env.script = item :: rest)
    (hd : s.isDue item.due = false) : step s = seqStep s := by
  simp [step, stepBoundary, h, hd]

/-- A due item is carried out. -/
theorem step_due {s : State} {item : Item} {rest : List Item} (h : s.env.script = item :: rest)
    (hd : s.isDue item.due = true) : step s = boundaryStep item.act (dropItem s) := by
  simp [step, stepBoundary, h, hd]

/-- A due issued word that decodes runs (log 17). -/
theorem step_issue {s : State} {item : Item} {rest : List Item} {word left : List Byte} {i : Instr}
    (h : s.env.script = item :: rest) (hd : s.isDue item.due = true) (ha : item.act = .issue word)
    (hw : decode s.cfg word = .ok (i, left)) : step s = issueOp i (dropItem s) := by
  rw [step_due h hd, ha]
  simp [boundaryStep, dropItem, hw]

/-- The next step after `withFetchWord` runs the table word's operation. -/
theorem step_withFetchWord {s : State} {nbits w : Nat} {i : Instr} {left : List Byte}
    (hw : decode s.cfg (tableBytes nbits w) = .ok (i, left)) :
    step (s.withFetchWord nbits w) = issueOp i s := by
  rw [step_issue (s := s.withFetchWord nbits w) (i := i) (left := left) (item := { due := .now, act := .issue (tableBytes nbits w) })
    (rest := s.env.script) (word := tableBytes nbits w) rfl rfl rfl hw]
  rfl

/-! ## HDST's own move -/

theorem seqStep_halted {s : State} (h : s.halted = true) : seqStep s = .fault .corruption := by simp [seqStep, h]

theorem seqStep_uop {s : State} {i : Instr} (h : s.halted = false) (hu : s.uop = some i) :
    seqStep s = issueUop i s := by simp [seqStep, h, hu]

theorem seqStep_irqPath {s : State} (h : s.halted = false) (hu : s.uop = none) (hi : s.ipc ≠ .rest) :
    seqStep s = iStep s := by simp [seqStep, h, hu, hi]

theorem seqStep_irqStart {s : State} (hu : s.uop = none) (hs : s.irqStart = true) :
    seqStep s = .next (irqEnter s) := by
  have h := hs
  simp only [State.irqStart, Bool.and_eq_true, decide_eq_true_eq, Bool.not_eq_true'] at h
  obtain ⟨⟨⟨_, hi⟩, hh⟩, _⟩ := h
  simp [seqStep, hh, hu, hi, hs]

theorem seqStep_caller {s : State} (h : s.halted = false) (hu : s.uop = none) (hi : s.ipc = .rest)
    (hs : s.irqStart = false) (hw : s.wpc ≠ .rest) : seqStep s = wStep s := by simp [seqStep, h, hu, hi, hs, hw]

theorem seqStep_command {s : State} (h : s.halted = false) (hu : s.uop = none) (hi : s.ipc = .rest)
    (hs : s.irqStart = false) (hw : s.wpc = .rest) : seqStep s = exec s.portCommand s := by
  simp [seqStep, h, hu, hi, hs, hw]

/-- Nothing pending, nothing starts. -/
theorem irqStart_noPend {s : State} (h : s.irqPend = false) : s.irqStart = false := by simp [State.irqStart, h]

/-! ## When a line of the script is due (30_encoding.md R114) -/

/-- The label of W where W moves next. -/
theorem nextW_caller {s : State} (h : s.halted = false) (hu : s.uop = none) (hi : s.ipc = .rest)
    (hs : s.irqStart = false) (hw : s.wpc ≠ .rest) : s.nextW = some s.wpc := by
  simp [State.nextW, h, hu, hi, hs, hw]

/-- No line waits for W where the start of I comes first. -/
theorem nextW_irqStart {s : State} (h : s.irqStart = true) : s.nextW = none := by simp [State.nextW, h]

/-- At rest with a command accepted next, the line due is that of W_INIT or W_ACC (log 11). -/
theorem nextW_accepts {s : State} (hr : s.cmdReady = true) (hu : s.uop = none) (hv : s.env.cmdValid = true) :
    (s.env.cmd = 1 → s.nextW = some .init) ∧ (s.env.cmd = 2 → s.nextW = some .acc) := by
  obtain ⟨hw, hi, hp, hh⟩ := (cmdReady_iff s).1 hr
  constructor <;> intro hc <;> simp [State.nextW, hh, hu, hi, irqStart_noPend hp, hw, hv, hc]

theorem nextI_label {s : State} (h : s.halted = false) (hu : s.uop = none) : s.nextI = some s.ipc := by
  simp [State.nextI, h, hu]

/-! ## The end of a run (70_reset_and_hazards.md R260) -/

theorem holds_iff (s : State) : s.holds = true ↔ seqStep s = .next s := by
  unfold State.holds
  split
  · next t h => simp [h]
  · next h => simp [h]
  · next h => simp [h]

/-- The four answers of `runStatus`, each with what it means. -/
theorem runStatus_cases (s : State) :
    (s.runStatus = .halted ∧ s.halted = true) ∨
    (s.runStatus = .ended ∧ s.halted = false ∧ s.atRest = true ∧ s.exhausted = true) ∨
    (s.runStatus = .holding ∧ s.halted = false ∧ s.env.script = [] ∧ s.holds = true) ∨
    (s.runStatus = .running ∧ s.halted = false) := by
  unfold State.runStatus
  split
  · exact .inl ⟨rfl, ‹_›⟩
  · next hh =>
    have hh : s.halted = false := by simpa using hh
    split
    · next h => exact .inr (.inl ⟨rfl, hh, by simpa using h⟩)
    · split
      · next h => exact .inr (.inr (.inl ⟨rfl, hh, by simpa using h⟩))
      · exact .inr (.inr (.inr ⟨rfl, hh⟩))

/-! ## The sequencers' glue -/

/-- What follows a micro-operation happens exactly when it is done. -/
theorem whenDone_eq_next {done : State → Bool} {f : State → State} {r : Result} {t : State} :
    whenDone done f r = .next t ↔ ∃ u, r = .next u ∧ t = (if done u then f u else u) := by
  unfold whenDone
  rw [andThen_eq_next]
  exact exists_congr fun u => and_congr_right fun _ => eq_comm

@[simp] theorem whenDone_next (done : State → Bool) (f : State → State) (s : State) :
    whenDone done f (.next s) = .next (if done s then f s else s) := rfl

/-- An operation issued directly moves only while the block is not halted (60_exceptions.md R221). -/
theorem issueUop_eq_next {i : Instr} {s t : State} :
    issueUop i s = .next t ↔ s.halted = false ∧ ∃ u, exec i { s with uop := none } = .next u ∧
      t = (if issueDone i u then u else { u with uop := some i }) := by
  unfold issueUop
  split
  · next h => simp [h]
  · next h =>
    rw [andThen_eq_next]
    simp only [Bool.not_eq_true] at h
    simp only [h, true_and]
    exact exists_congr fun u => and_congr_right fun _ => eq_comm

/-! ## Runs -/

theorem runSteps_succ {n : Nat} {s t : State} (h : step s = .next t) : runSteps (n + 1) s = runSteps n t := by
  simp [runSteps, h]

theorem runSteps_add {m n : Nat} {s t : State} (h : runSteps m s = .next t) :
    runSteps (m + n) s = runSteps n t := by
  induction m generalizing s with
  | zero => cases h; simp
  | succ m ih =>
    rw [Nat.succ_add]
    simp only [runSteps] at h ⊢
    split at h
    · exact ih h
    · cases h
    · cases h

/-- A step that changes nothing is repeated for ever. -/
theorem runSteps_fixed {s : State} (h : step s = .next s) (k : Nat) : runSteps k s = .next s := by
  induction k with
  | zero => rfl
  | succ k ih => rw [runSteps_succ h, ih]

theorem repeatExec_add {i : Instr} {m n : Nat} {s t : State} (h : repeatExec i m s = .next t) :
    repeatExec i (m + n) s = repeatExec i n t := by
  induction m generalizing s with
  | zero => cases h; simp
  | succ m ih =>
    rw [Nat.succ_add]
    simp only [repeatExec] at h ⊢
    split at h
    · exact ih h
    · cases h
    · cases h

end Sys2Proof.Machine
end

