-- ==== Sys2Proof/Tests/Slice0.lean ====
section
/-! SUPPORT. The tests. Expected values are the spec's worked examples (30_encoding.md R92, R97, R101, R102; the examples
of 40_bus_driver.md, 41_irq_sync.md, 43_transport_read.md; the vectors of 95_test_vectors.md) or are written out by hand
from the encoding tables. A theorem whose name begins with `witness_` shows a state and operands that meet every
hypothesis of the statement it names. -/

namespace Sys2Proof.Tests

open Sys2Proof.Machine

set_option Elab.async false

/-! ## Helpers -/

/-- The result is a next state with a property. -/
def nextIs (r : Result) (p : State → Bool) : Bool :=
  match r with
  | .next t => p t
  | .fault _ => false
  | .refused _ => false

/-- The result is this fault. -/
def faultIs (r : Result) (f : Fault) : Bool :=
  match r with
  | .next _ => false
  | .fault g => decide (g = f)
  | .refused _ => false

/-- The result is this refusal. -/
def refusedIs (r : Result) (f : Refusal) : Bool :=
  match r with
  | .next _ => false
  | .fault _ => false
  | .refused g => decide (g = f)

/-- Both guards hold SENTINEL, the signal is enabled: a block after INIT, in a state of the protocol. -/
def up (st : TransportState) : State :=
  { State.reset with state := st, irqEn := true, tx := [(32, 0xDE)], rx := [(32, 0xDE)] }

/-- SUBMIT_WRITE L waits on the port. -/
def asked (st : TransportState) (len : Half) : State :=
  { up st with env := { Env.initial with cmdValid := true, cmd := 2, wrLen := len } }

/-- A block whose environment has one action to do now. -/
def doing (a : Action) (s : State) : State := pushItem { due := .now, act := a } s

/-- W at a label. -/
def atW (label : WLabel) (st : TransportState) : State := { up st with wpc := label }

/-- I at a label. -/
def atI (label : ILabel) (st : TransportState) : State := { up st with ipc := label }

/-- The data header of vector P5: 3 payload bytes. -/
def dataHeader : List Byte := [0x02, 0x00, 0x00, 0x00, 0x00, 0x02, 0x00, 0x00, 0x03, 0x00]

/-- An event header with raw length byte 5 (R101). -/
def eventHeader : List Byte := [0x02, 0x00, 0x00, 0x00, 0x00, 0x04, 0x00, 0x00, 0x05, 0x00]

/-- An event header with raw length byte 0. -/
def emptyEvent : List Byte := [0x02, 0x00, 0x00, 0x00, 0x00, 0x04, 0x00, 0x00, 0x00, 0x00]

/-- The header of vector P6: an unknown type. -/
def otherHeader : List Byte := [0x02, 0x00, 0x00, 0x00, 0x00, 0x7F, 0x00, 0x00, 0x09, 0x00]

/-! ## WellFormed refuses -/

theorem wf_refuses_onIrqOther_ownArms :
    Instr.wf Config.p0 (.onIrqOther 0) = false ∧ Instr.wf Config.p0 (.onIrqOther 2) = false ∧
    Instr.wf Config.p0 (.onIrqOther 3) = false := by decide
theorem wf_refuses_wrframe_tag : Instr.wf Config.p0 (.wrframe 0x02 0x00 0x05) = false := by decide
theorem wf_refuses_wrframe_evenLength : Instr.wf Config.p0 (.wrframe 0x01 0x00 0x04) = false := by decide
theorem wf_refuses_rdframe_length :
    Instr.wf Config.p0 (.rdframeData (dataHeader.take 9)) = false ∧
    Instr.wf Config.p0 (.rdframeEvent (eventHeader ++ [0x00])) = false ∧
    Instr.wf Config.p0 (.rdframeOther []) = false := by decide
theorem wf_refuses_rdframe_kind :
    Instr.wf Config.p0 (.rdframeData eventHeader) = false ∧ Instr.wf Config.p0 (.rdframeEvent otherHeader) = false ∧
    Instr.wf Config.p0 (.rdframeOther dataHeader) = false := by decide
theorem wf_refuses_frameIn_long : Instr.wf Config.p0 (.frameIn (List.replicate (2 ^ 24) 0x00)) = false := by
  simp only [Instr.wf, List.length_replicate, Nat.lt_irrefl, decide_false]
theorem wf_refuses_write_long : Instr.wf Config.p0 (.write 1 (List.replicate (2 ^ 24) 0x00)) = false := by
  simp only [Instr.wf, List.length_replicate, Nat.lt_irrefl, decide_false]
theorem wf_refuses_config :
    Config.wf { Config.p0 with tagEvent := 0x02 } = false ∧ Config.wf { Config.p0 with txCap := 5 } = false ∧
    Config.wf { Config.p0 with rxCap := 9 } = false ∧ Config.wf { Config.p0 with syncStages := 1 } = false := by decide

/-! ## Words written out from the tables -/

/-- Host commands: codes 00, 01, 10, 11 of R107 in space 1. -/
theorem decodes_hostCommands :
    decode Config.p0 [0x10] = .ok (.nocmd, []) ∧ decode Config.p0 [0x11] = .ok (.init, []) ∧
    decode Config.p0 [0x12, 0x34, 0x12] = .ok (.submitWrite 0x1234, []) ∧
    decode Config.p0 [0x13] = .ok (.cmdReserved, []) := ⟨rfl, rfl, rfl, rfl⟩

/-- The interrupt arms: state codes of R21 in space 2. -/
theorem decodes_interruptArms :
    decode Config.p0 [0x20] = .ok (.onIrqPowerup, []) ∧ decode Config.p0 [0x22] = .ok (.onIrqIdle, []) ∧
    decode Config.p0 [0x23] = .ok (.onIrqWriteirq, []) ∧ decode Config.p0 [0x21] = .ok (.onIrqOther 1, []) ∧
    decode Config.p0 [0x28] = .ok (.onIrqOther 8, []) := ⟨rfl, rfl, rfl, rfl, rfl⟩

/-- Micro-operations without operands: codes of R113 in space 0. -/
theorem decodes_plainMicroOperations :
    decode Config.p0 [0x00] = .ok (.uopNone, []) ∧ decode Config.p0 [0x01] = .ok (.csAssert, []) ∧
    decode Config.p0 [0x02] = .ok (.csDeassert, []) ∧ decode Config.p0 [0x05] = .ok (.irqEn, []) ∧
    decode Config.p0 [0x06] = .ok (.irqDis, []) ∧ decode Config.p0 [0x07] = .ok (.irqLvl, []) ∧
    decode Config.p0 [0x0B] = .ok (.decodeHdr, []) := ⟨rfl, rfl, rfl, rfl, rfl, rfl, rfl⟩

/-- Micro-operations with operands, least significant byte first (log 15). -/
theorem decodes_microOperationsWithOperands :
    decode Config.p0 [0x03, 0xA5] = .ok (.xchg 0xA5, []) ∧
    decode Config.p0 [0x04, 0x32, 0x00] = .ok (.delayUs 50, []) ∧
    decode Config.p0 [0x08, 0x0A, 0x04, 0x00] = .ok (.deliver 10 4, []) ∧
    decode Config.p0 [0x09, 0x00, 0x01] = .ok (.checkGuard .tx .ckWe, []) ∧
    decode Config.p0 [0x0A, 0x05, 0x01] = .ok (.buildHdr 0x0105, []) ∧
    decode Config.p0 [0x0C, 0x04, 0x00, 0x00, 0x01] = .ok (.shuttleTx 4 0x10000, []) ∧
    decode Config.p0 [0x0D, 0x0A, 0x02, 0x00, 0x00, 0x0A, 0x00, 0x00] = .ok (.shuttleRx 10 2 10, []) :=
  ⟨rfl, rfl, rfl, rfl, rfl, rfl, rfl⟩

/-- Wire headers: the bytes of R91 and R95 as they stand. -/
theorem decodes_frames :
    decode Config.p0 [0x30, 0x01, 0x00, 0x05, 0x00, 0x00] = .ok (.wrframe 0x01 0x00 0x05, []) ∧
    decode Config.p0 (0x40 :: dataHeader) = .ok (.rdframeData dataHeader, []) ∧
    decode Config.p0 (0x40 :: eventHeader) = .ok (.rdframeEvent eventHeader, []) ∧
    decode Config.p0 (0x40 :: otherHeader) = .ok (.rdframeOther otherHeader, []) := ⟨rfl, rfl, rfl, rfl⟩

/-- Pseudo-actions of R115. -/
theorem decodes_pseudoActions :
    decode Config.p0 [0x50] = .ok (.edge, []) ∧
    decode Config.p0 [0x51, 0x02, 0x00, 0x00, 0xC1, 0xC2] = .ok (.frameIn [0xC1, 0xC2], []) ∧
    decode Config.p0 [0x52, 0x02, 0x00, 0x01, 0x00, 0x00, 0xB1] = .ok (.write 2 [0xB1], []) := ⟨rfl, rfl, rfl⟩

/-- What is no operation is rejected by name. -/
theorem decode_rejects :
    decode Config.p0 [] = .error .empty ∧ decode Config.p0 [0x0E] = .error .unusedUop ∧
    decode Config.p0 [0x0F] = .error .unusedUop ∧ decode Config.p0 [0x14] = .error .unusedCode ∧
    decode Config.p0 [0x2C] = .ok (.onIrqOther 12, []) ∧ decode Config.p0 [0x60] = .error .unusedCode ∧
    decode Config.p0 [0x30, 0x01, 0x00, 0x05, 0x00, 0x01] = .error .reservedBits ∧
    decode Config.p0 [0x30, 0x01, 0x00, 0x04, 0x00, 0x00] = .error .illFormed ∧
    decode Config.p0 [0x0C, 0x04, 0x00, 0x00, 0x02] = .error .reservedBits ∧
    decode Config.p0 [0x0C, 0x84, 0x00, 0x00, 0x00, 0x00] = .error .reservedBits ∧
    decode Config.p0 [0x03] = .error .truncated := ⟨rfl, rfl, rfl, rfl, rfl, rfl, rfl, rfl, rfl, rfl, rfl⟩

/-- Table words (log 16): a micro-operation, two host commands, a write header, a read header. -/
theorem table_words :
    decodeTableWord 4 1 = some .csAssert ∧ decodeTableWord 2 1 = some .init ∧
    decodeTableWord 2 2 = some (.submitWrite 0) ∧ decodeTableWord 40 0x0000050001 = some (.wrframe 0x01 0x00 0x05) ∧
    decodeTableWord 80 0x00030000020000000002 = some (.rdframeData dataHeader) := ⟨rfl, rfl, rfl, rfl, rfl⟩

/-- The step after `withFetchWord` runs the word: CS_ASSERT right after reset (R121). -/
theorem test_fetchWord_runs : nextIs (step (State.reset.withFetchWord 8 1)) (fun t => t.cs) = true := by decide

/-! ## Worked examples of the spec -/

/-- R92: `BuildHdr(5) = (0, [WR_TAG, 0x00, 0x05, 0x00, 0x00], 10)`. -/
theorem test_buildHdr_five :
    nextIs (exec (.buildHdr 5) (up .idle)) (fun t => decide (t.pad = 0) && decide (t.txTot = 10) &&
      decide (t.bytesFrom .tx 0 5 = [0x01, 0x00, 0x05, 0x00, 0x00])) = true := by decide

/-- R185: L = 0 takes a pad; the header is that of L = 1, 6 bytes are sent. -/
theorem test_buildHdr_zero :
    nextIs (exec (.buildHdr 0) (up .idle)) (fun t => decide (t.pad = 1) && decide (t.txTot = 6) &&
      decide (t.bytesFrom .tx 0 5 = [0x01, 0x00, 0x01, 0x00, 0x00])) = true := by decide

/-- R94, R105: the largest even L gives 65535 in the length field and a total of 65540. -/
theorem test_buildHdr_largest :
    nextIs (exec (.buildHdr 65534) (up .idle)) (fun t => decide (t.txTot = 65540) &&
      decide (t.bytesFrom .tx 1 2 = [0xFF, 0xFF])) = true := by decide

/-- R97: bytes `02 01` at the offset give 258. -/
theorem test_dataLen : dataLen Config.p0 [0, 0, 0, 0, 0, 2, 0, 0, 0x02, 0x01] = 258 := by decide

/-- R101, R102: raw length byte 5 gives 4 payload bytes and, with HDR_CONST even, 5 bytes to read. -/
theorem test_decodeHdr_event :
    nextIs (exec .decodeHdr ((up .idle).store .rx 0 eventHeader)) (fun t => decide (t.rxKind = .event) &&
      decide (t.rxLen = 4) && decide (t.rxN = 5)) = true := by decide

/-- C3, R102: with HDR_CONST odd the same header takes no pad. -/
theorem test_readCount_oddConstant : readCount { Config.p0 with hdrConst := 11 } 4 = 4 := by decide

/-- R100: an unknown type is a zero-payload frame. -/
theorem test_decodeHdr_other :
    nextIs (exec .decodeHdr ((up .idle).store .rx 0 otherHeader)) (fun t => decide (t.rxKind = .other) &&
      decide (t.rxLen = 0) && decide (t.rxN = 0)) = true := by decide

/-- U3: the event length byte 0 faults. -/
theorem test_decodeHdr_emptyEvent :
    faultIs (exec .decodeHdr ((up .idle).store .rx 0 emptyEvent)) .eventLengthZero = true := by decide

/-- R121, R110: the trace CS+ and, with CS_ACTIVE_LOW, a low pin. -/
theorem test_csAssert :
    nextIs (exec .csAssert (up .idle)) (fun t => t.cs && !t.csPin && decide (t.trace = [.csUp])) = true := by decide

/-- R121: no pulse when chip-select is already asserted. -/
theorem test_csAssert_again :
    nextIs (exec .csAssert { up .idle with cs := true }) (fun t => t.cs && decide (t.trace = [])) = true := by decide

/-- R122. -/
theorem test_csDeassert :
    nextIs (exec .csDeassert { up .idle with cs := true }) (fun t => !t.cs && t.csPin && decide (t.trace = [.csDown])) =
      true := by decide

/-- R123: `Xchg(0x01)` answered with 0xFF, trace X(01/FF). -/
theorem test_xchg :
    nextIs (exec (.xchg 0x01) { up .idle with env := { Env.initial with replies := [0xFF] } })
      (fun t => !t.xReq && decide (t.xIn = 0xFF) && decide (t.trace = [.exchange 0x01 0xFF])) = true := by decide

/-- R110: without an acknowledgement the request stands. -/
theorem test_xchg_waits :
    nextIs (exec (.xchg 0x01) { up .idle with env := { Env.initial with xAuto := none } })
      (fun t => t.xReq && decide (t.xOut = 0x01) && decide (t.trace = [])) = true := by decide

/-- R124: `Delay(50)`, trace D(50). -/
theorem test_delayUs :
    nextIs (exec (.delayUs 50) (up .idle)) (fun t => !t.dReq && decide (t.trace = [.delay 50])) = true := by decide

/-- R205: DELIVER(10,4) stands until the sink acknowledges. -/
theorem test_deliver :
    nextIs (exec (.deliver 10 4) (up .idle)) (fun t => t.sValid && decide (t.sPtr = 10) && decide (t.sLen = 4) &&
      decide (t.trace = [.deliver 10 4])) = true := by decide

/-- R126: the first exchange of `ShuttleTx(0, 3)` over TX = 01 00 05 with reply AA. -/
theorem test_shuttleTx :
    nextIs (exec (.shuttleTx 0 3) { (up .idle).store .tx 0 [0x01, 0x00, 0x05] with
        env := { Env.initial with replies := [0xAA, 0xBB, 0xCC] } })
      (fun t => decide (t.txRem = 2) && decide (t.trace = [.exchange 0x01 0xAA])) = true := by decide

/-- R127: the second exchange of `ShuttleRx(10, 2, 10)` with reply C2 stores RX[11] and sends RD_TX(11). -/
theorem test_shuttleRx :
    nextIs (exec (.shuttleRx 10 2 10)
        { up .idle with rxOpen := true, rxRem := 1, env := { Env.initial with replies := [0xC2] } })
      (fun t => decide (t.rxRem = 0) && !t.rxOpen && decide (t.bufByte .rx 11 = 0xC2) &&
        decide (t.trace = [.exchange 0x00 0xC2])) = true := by decide

/-- R67, U6: the store at the guard is defined, the one above it faults. -/
theorem test_shuttleRx_guard :
    nextIs (exec (.shuttleRx 32 1 10) { up .idle with env := { Env.initial with replies := [0x17] } })
      (fun t => decide (t.guardByte .rx = 0x17)) = true ∧
    faultIs (exec (.shuttleRx 33 1 10) (up .idle)) .rxOverrun = true := by decide

/-- R222: TX[TX_CAP] = 0x00 against SENTINEL = 0xDE raises. -/
theorem test_checkGuard :
    nextIs (exec (.checkGuard .tx .ckWb) { up .idle with tx := [(32, 0x00)] })
      (fun t => t.halted && decide (t.trace = [.halt .ckWb])) = true := by decide

/-- R146: enabling with the level asserted leaves `irq_pend`. -/
theorem test_irqEn :
    nextIs (exec .irqEn { State.reset with irqS := true }) (fun t => t.irqEn && !t.irqPend) = true := by decide

/-- R147: an active edge while disabled leaves no trace. -/
theorem test_irqDis :
    nextIs (exec .irqDis (up .idle)) (fun t => nextIs (exec .edge t) (fun u => !u.irqPend && u.irqS)) = true := by decide

/-- R148: LVL=1. -/
theorem test_irqLvl :
    nextIs (exec .irqLvl { up .idle with irqS := true }) (fun t => decide (t.trace = [.level true])) = true := by decide

/-- R115, R144: EDGE while enabled sets `irq_pend`; FRAME_IN also lists the replies. -/
theorem test_frameIn :
    nextIs (exec (.frameIn [0xC1, 0xC2]) (up .idle)) (fun t => t.irqPend && decide (t.env.replies = [0xC1, 0xC2])) =
      true := by decide

/-- R115: WRITE 2 [B1 B2] stores TX[5], TX[6] and starts W. -/
theorem test_write :
    nextIs (exec (.write 2 [0xB1, 0xB2]) (up .idle)) (fun t => t.busy && decide (t.wrL = 2) &&
      decide (t.bytesFrom .tx 5 2 = [0xB1, 0xB2])) = true := by decide

/-- R161: after RESET, INIT gives PowerUp, `irq_en = 1` and both guards. -/
theorem test_init :
    nextIs (exec .init State.reset) (fun t => t.irqEn && decide (t.state = .powerUp) &&
      decide (t.guardByte .tx = 0xDE) && decide (t.guardByte .rx = 0xDE)) = true := by decide

/-- R163: the acceptance; R108: with an edge pending the command waits. -/
theorem test_submitWrite :
    nextIs (exec (.submitWrite 5) (up .idle)) (fun t => t.busy && decide (t.wpc = .ckb) && decide (t.wrL = 5)) = true ∧
    nextIs (exec (.submitWrite 5) { up .idle with irqPend := true }) (fun t => !t.busy && t.env.cmdValid) = true := by
  decide

/-- R192: state = PowerUp, EDGE: state = Initialized, trace ST(Initialized). -/
theorem test_onIrqPowerup :
    nextIs (exec .onIrqPowerup { up .powerUp with irqPend := true, ipc := .take })
      (fun t => decide (t.state = .initialized) && !t.irqPend && decide (t.ipc = .rest) &&
        decide (t.trace = [.st .initialized])) = true := by decide

/-- R206: in Initialized the edge is consumed and nothing else happens. -/
theorem test_onIrqOther :
    nextIs (step { atI .take .initialized with irqPend := true })
      (fun t => decide (t.state = .initialized) && !t.irqPend && decide (t.ipc = .rest) && decide (t.trace = [])) =
      true := by decide

/-- P5: the data header gives length 3 and 3 bytes to read. -/
theorem test_rdframeData :
    nextIs (exec (.rdframeData dataHeader) (up .idle)) (fun t => decide (t.rxLen = 3) && decide (t.rxN = 3) &&
      decide (t.rxHeader = dataHeader)) = true := by decide

/-- R91: the first micro-step of WRFRAME asserts chip-select and sends the tag. -/
theorem test_wrframe :
    nextIs (exec (.wrframe 0x01 0x00 0x05) (up .idle)) (fun t => t.cs && t.txOpen && decide (t.txRem = 9) &&
      decide (t.trace = [.exchange 0x01 0x00, .csUp])) = true := by decide

/-- P7: after the halt nothing moves, and INIT waits on the port. -/
theorem test_halted :
    faultIs (step { up .idle with halted := true }) .corruption = true ∧
    nextIs (exec .init { up .idle with halted := true }) (fun t => t.halted && t.env.cmdValid) = true := by decide

/-- R221: a host store finds the halted block and changes no byte. -/
theorem test_halted_hostStore :
    nextIs (step (doing (.host .tx 0 [0x77]) { up .idle with halted := true, tx := [(0, 0x11), (32, 0xDE)] }))
      (fun t => decide (t.bufByte .tx 0 = 0x11)) = true := by decide

/-- R12: an index beyond 17 bits is held and delivered whole. -/
theorem test_wideIndex :
    nextIs (exec (.deliver 1000000 4) (up .idle)) (fun t => decide (t.sPtr = 1000000)) = true ∧
    decode Config.p0 [0x08, 0xC0, 0x84, 0x3D, 0x04, 0x00] = .ok (.deliver 1000000 4, []) := ⟨by decide, rfl⟩

/-- R114: a line at W_ACC or W_INIT is due with the command on the port; a line at W_FIN is not while the start of I
comes first (R229); a line at W_CR2 is due with an edge pending, since I does not start there (R179). -/
theorem test_isDue :
    (asked .idle 5).isDue (.atW .acc) = true ∧ (asked .idle 5).isDue (.atW .rest) = false ∧
    State.isDue { asked .idle 5 with irqPend := true } (.atW .acc) = false ∧
    State.isDue { State.reset with env := { Env.initial with cmdValid := true, cmd := 1 } } (.atW .init) = true ∧
    State.isDue { atW .fin .writeIrq with irqPend := true } (.atW .fin) = false ∧
    State.isDue { atW .fin .writeIrq with irqPend := true } (.atI .rest) = true ∧
    (atW .fin .writeIrq).isDue (.atW .fin) = true ∧ (atI .take .idle).isDue (.atI .take) = true ∧
    State.isDue { atW .cr2 .idle with irqPend := true } (.atW .cr2) = true := by decide

/-- Log 33: a reset in the middle of a frame releases chip-select and records no event. -/
theorem test_reset_traceKept :
    nextIs (step (doing .reset { atW .wu7 .powerUp with cs := true, trace := [.csUp] }))
      (fun t => !t.cs && decide (t.trace = [.csUp])) = true := by decide

/-- Log 34: the level driven before a reset is not kept, and naming it again after INIT is an edge. -/
theorem test_reset_lineForgotten :
    nextIs (step (doing .reset { up .idle with irqMeta := true, irqS := true, irqPrev := true }))
      (fun t => !t.irqMeta && !t.irqS && nextIs (step t) fun u => !u.irqS) = true ∧
    nextIs (step (doing (.line true) (up .powerUp))) (fun t => t.irqS && t.irqPend) = true := by decide

/-- Log 32: with a delay standing at W_WU2 an edge starts I, and the request stays. -/
theorem test_irqStart_insideDelay :
    nextIs (step { atW .wu2 .powerUp with cs := true, dReq := true, irqPend := true })
      (fun t => decide (t.ipc = .take) && t.dReq && decide (t.wpc = .wu2)) = true := by decide

/-! ## Witnesses of the statements' hypotheses -/

theorem witness_DecodeOfEncode :
    Instr.wf Config.p0 (.shuttleRx 1000000 0 0x1FFFF) = true ∧ Instr.wf Config.p0 (.onIrqOther 15) = true ∧
    Instr.wf Config.p0 (.wrframe 0x01 0xFF 0xFF) = true ∧ Instr.wf Config.p0 (.rdframeOther otherHeader) = true := by
  decide

theorem witness_EncodeOfDecode :
    decode Config.p0 [0x52, 0xFF, 0xFF, 0x01, 0x00, 0x00, 0xB1, 0x77] = .ok (.write 0xFFFF [0xB1], [0x77]) := rfl

theorem witness_UnusedCodesRefused :
    refusedIs (step (doing (.issue (opByte 0 14 :: [0x05])) State.reset)) (.badWord .unusedUop) = true ∧
    refusedIs (step (doing (.issue (opByte 0 15 :: [])) State.reset)) (.badWord .unusedUop) = true := by decide

theorem witness_IssuedWordRuns :
    (doing (.issue [0x11]) (up .idle)).isDue .now = true ∧ decode Config.p0 [0x11] = .ok (.init, []) ∧
    environmental .init = true ∧ decode Config.p0 [0x01] = .ok (.csAssert, []) ∧ environmental .csAssert = false ∧
    nextIs (step (doing (.issue [0x01]) (up .idle))) (fun t => t.cs) = true ∧
    faultIs (step (doing (.issue [0x01]) { up .idle with halted := true })) .corruption = true ∧
    nextIs (step { up .idle with uop := some (.xchg 7), xReq := true, env := { Env.initial with replies := [0x09] } })
      (fun t => decide (t.uop = none) && decide (t.xIn = 0x09)) = true :=
  ⟨rfl, rfl, rfl, rfl, rfl, by decide, by decide, by decide⟩

theorem witness_PortCommandRuns :
    (∀ code : Fin 4,
      runsAlone { up .idle with env := { Env.initial with cmdValid := true, cmd := BitVec.ofFin code } } ∧
      State.cmdReady { up .idle with env := { Env.initial with cmdValid := true, cmd := BitVec.ofFin code } } = true) ∧
    runsAlone (up .idle) ∧ (up .idle).env.cmdValid = false := by decide

theorem witness_TakeRunsArm :
    runsAlone (atI .take .powerUp) ∧ runsAlone (atI .take .idle) ∧ runsAlone (atI .take .writeIrq) ∧
    runsAlone (atI .take .readEot) := by decide

theorem witness_DecodeHdrSetsRegisters :
    ((up .idle).store .rx 0 dataHeader).bufByte .rx 5 = 0x02 ∧
    ((up .idle).store .rx 0 eventHeader).bufByte .rx 5 = 0x04 ∧
    ((up .idle).store .rx 0 eventHeader).bufByte .rx 8 ≠ 0 ∧
    ((up .idle).store .rx 0 emptyEvent).bufByte .rx 8 = 0 ∧
    ((up .idle).store .rx 0 otherHeader).bufByte .rx 5 = 0x7F := by decide

theorem witness_ReadHeadersDecode :
    (Instr.rdframeData dataHeader).wf (up .idle).cfg = true ∧ (Instr.rdframeEvent eventHeader).wf (up .idle).cfg = true ∧
    headerByte eventHeader 8 ≠ 0 ∧ (Instr.rdframeEvent emptyEvent).wf (up .idle).cfg = true ∧
    headerByte emptyEvent 8 = 0 ∧ (Instr.rdframeOther otherHeader).wf (up .idle).cfg = true := by decide

theorem witness_WrframeSendsFrame :
    5 + 256 * (0x00 : Byte).toNat + (0x1B : Byte).toNat = (up .idle).cfg.txCap ∧ (up .idle).txOpen = false ∧
    (up .idle).xReq = false ∧ (up .idle).cs = false ∧ (up .idle).env.canGive 32 := by decide

theorem witness_ChipSelectOperations :
    Inv { atW .wu7 .powerUp with cs := true } ∧ State.resets { atW .wu7 .powerUp with cs := true } = false ∧
    nextIs (step { atW .wu7 .powerUp with cs := true }) (fun t => !t.cs && decide (t.state = .idle)) = true ∧
    (up .idle).cs = false := by decide

theorem witness_ExchangeHandshake :
    { Env.initial with replies := [0xFF] }.replies = [0xFF] ∧ Env.initial.replies = [] ∧
    Env.initial.xAuto = some 0x00 ∧ { Env.initial with xAuto := none }.xAuto = none := ⟨rfl, rfl, rfl, rfl⟩

theorem witness_DelayHandshake :
    (up .idle).dReq = false ∧ (up .idle).env.timer.acks = true ∧ Peer.acked.acks = true ∧
    { Env.initial with timer := Peer.silent }.timer = .silent ∧ { up .idle with dReq := true }.dReq = true := by decide

theorem witness_DeliverHandshake :
    (up .idle).sValid = false ∧ (up .idle).env.sink = .silent ∧ Peer.acked.acks = true ∧
    runsAlone (atI .rd9 .idle) ∧ (atI .rd9 .idle).sValid = false ∧
    runsAlone { atI .rd9 .idle with sValid := true, env := { Env.initial with sink := .acked } } := by decide

theorem witness_ShuttleTxMicroStep :
    (up .idle).txOpen = false ∧ (up .idle).xReq = false ∧ Env.initial.answer? = some (0x00, []) ∧
    { Env.initial with xAuto := none }.answer? = none ∧
    nextIs (exec (.shuttleTx 33 1) (up .idle)) (fun t => decide (t.free = 1) && !t.txOpen) = true ∧
    nextIs (exec (.shuttleTx 4 0) (up .idle)) (fun t => decide (t.trace = [])) = true ∧
    nextIs (exec (.shuttleTx 0 2) { up .idle with txOpen := true, txRem := 1, xReq := true, xOut := 0x55 })
      (fun t => decide (t.trace = [.exchange 0x55 0x00]) && !t.txOpen) = true := by decide

theorem witness_ShuttleTxSendsRange :
    (33 : Count) ≠ 0 ∧ (up .idle).txOpen = false ∧ (up .idle).xReq = false ∧
    (0 : Count).toNat + (33 : Count).toNat ≤ (up .idle).cfg.txCap + 1 ∧ (up .idle).env.canGive 33 := by decide

theorem witness_ShuttleRxMicroStep :
    (up .idle).rxOpen = false ∧ (up .idle).xReq = false ∧ Env.initial.answer? = some (0x00, []) ∧
    { Env.initial with xAuto := none }.answer? = none ∧
    nextIs (exec (.shuttleRx 32 1 0) (up .idle)) (fun t => !t.rxOpen) = true ∧
    faultIs (exec (.shuttleRx 32 2 0) { up .idle with rxOpen := true, rxRem := 1 }) .rxOverrun = true ∧
    nextIs (exec (.shuttleRx 10 0 10) (up .idle)) (fun t => decide (t.trace = [])) = true ∧
    nextIs (exec (.shuttleRx 31 2 10) { up .idle with rxOpen := true, rxRem := 1, xReq := true, xOut := 0x55 })
      (fun t => decide (t.trace = [.exchange 0x55 0x00]) && !t.rxOpen && decide (t.bufByte .rx 32 = 0x00)) = true ∧
    nextIs (exec (.shuttleRx 10 2 10) { up .idle with rxOpen := true, rxRem := 1, xReq := true,
                                                      env := { Env.initial with xAuto := none } })
      (fun t => t.xReq && decide (t.rxRem = 1)) = true := by decide

theorem witness_ShuttleRxStoresRange :
    (23 : Count) ≠ 0 ∧ (up .idle).rxOpen = false ∧ (up .idle).xReq = false ∧ (up .idle).env.canGive 24 ∧
    (10 : Count).toNat + (23 : Count).toNat ≤ (up .idle).cfg.rxCap + 1 ∧
    (up .idle).cfg.rxCap + 1 < (10 : Count).toNat + (24 : Count).toNat := by decide

theorem witness_SynchroniserClock :
    (up .idle).irqChain = [] ∧
    (doing (.clk true) (up .idle)).env.script = { due := .now, act := .clk true } :: [] ∧
    (State.initial { Config.p0 with syncStages := 3 }).irqChain = [] ++ [false] ∧
    nextIs (step (doing (.clk true) { up .idle with irqMeta := true })) (fun t => t.irqPend && t.irqS && !t.irqPrev) =
      true := by decide

theorem witness_LineAbstractForm :
    Config.p0.wf = true ∧ settled (up .idle) ∧ settled (State.initial { Config.p0 with syncStages := 4 }) ∧
    (doing (.line true) (up .idle)).env.script = { due := .now, act := .line true } :: [] ∧
    nextIs (step (doing (.line true) (up .idle))) (fun t => t.irqPend) = true := by decide

theorem witness_EdgeAndFrameIn : (up .idle).cfg.wf = true ∧ settled (up .idle) := by decide

theorem witness_WriteStoresAndSubmits :
    5 + (List.replicate 28 (0xDE : Byte)).length = (up .idle).cfg.txCap + 1 ∧ (up .idle).cmdReady = true ∧
    State.cmdReady { up .idle with irqPend := true } = false ∧ { up .idle with halted := true }.halted = true ∧
    (up .idle).cfg.txCap + 1 < 5 + (List.replicate 29 (0xDE : Byte)).length := by decide

theorem witness_CommandsAccepted : (up .idle).cmdReady = true := by decide

theorem witness_CommandsHeld :
    State.cmdReady { up .idle with irqPend := true } = false ∧ (atW .fin .writeIrq).cmdReady = false ∧
    (atI .rd3 .readIrq).cmdReady = false := by decide

theorem witness_InitEffect : State.reset.cmdReady = true ∧ { up .idle with halted := true }.halted = true := by decide

theorem witness_HostBufferPort :
    (doing (.host .tx 32 [0x00]) (up .idle)).env.script = { due := .now, act := .host .tx 32 [0x00] } :: [] ∧
    nextIs (step (doing (.host .tx 32 [0x00]) (up .idle))) (fun t => decide (t.bufRdata .tx 32 = some 0x00)) = true ∧
    refusedIs (step (doing (.host .rx 33 [0x00]) (up .idle))) .bufferIndex = true ∧
    (doing (.host .rx 32 [0x00]) { up .idle with halted := true }).halted = true ∧
    32 + [(0x00 : Byte)].length ≤ (up .idle).cap .rx + 1 := by decide

theorem witness_CheckGuardCompares :
    decodeUop 9 [0x01, 0x02] = .ok (.checkGuard .rx .ckRb, []) ∧
    (up .idle).bufByte .tx 32 = (up .idle).cfg.sentinel ∧
    State.bufByte { up .idle with rx := [(32, 0x00)] } .rx 32 ≠ (up .idle).cfg.sentinel :=
  ⟨rfl, by decide, by decide⟩

/-- One state for each of the six sites, and its two outcomes. -/
theorem witness_GuardSites :
    nextIs (step (atW .ckb .powerUp)) (fun t => decide (t.wpc = .hdr)) = true ∧
    nextIs (step { atW .ckb .powerUp with tx := [(32, 0)] }) (fun t => t.halted) = true ∧
    nextIs (step (atW .wu6 .initialized)) (fun t => decide (t.wpc = .wu7)) = true ∧
    nextIs (step { atW .wu6 .powerUp with tx := [(32, 0)] }) (fun t => t.halted) = true ∧
    nextIs (step { atW .il2 .writeIrq with irqPend := true }) (fun t => decide (t.wpc = .il3)) = true ∧
    nextIs (step { atW .il2 .writeIrq with tx := [(32, 0)] }) (fun t => t.halted) = true ∧
    nextIs (step { atI .wr2 .writeIrq with wpc := .fin }) (fun t => decide (t.ipc = .wr3)) = true ∧
    nextIs (step { atI .wr2 .writeIrq with wpc := .fin, tx := [(32, 0)] }) (fun t => t.halted) = true ∧
    nextIs (step (atI .rd1 .idle)) (fun t => decide (t.ipc = .rd2)) = true ∧
    nextIs (step { atI .rd1 .idle with rx := [(32, 0)] }) (fun t => t.halted && !t.cs) = true ∧
    nextIs (step (atI .rd7 .readEot)) (fun t => decide (t.ipc = .rd8)) = true ∧
    nextIs (step { atI .rd7 .readEot with rx := [(32, 0)] }) (fun t => t.halted && !t.sValid) = true := by decide

theorem witness_HaltFreezes :
    (doing (.line true) { up .idle with halted := true }).resets = false ∧
    nextIs (step (doing (.host .rx 3 [0x05]) { up .idle with halted := true }))
      (fun t => t.halted && decide (t.rx = (up .idle).rx)) = true ∧
    nextIs (step (doing (.line true) { up .idle with halted := true })) (fun t => t.halted && t.irqPend) = true := by
  decide

theorem witness_HaltedBlockFaults :
    State.selfMove { up .idle with halted := true } = true ∧
    (doing .pass { up .idle with halted := true }).selfMove = true := by decide

theorem witness_WriteBeginning :
    runsAlone (atW .ckb .idle) ∧ (atW .ckb .idle).guardByte .tx = (up .idle).cfg.sentinel ∧
    runsAlone (atW .hdr .idle) ∧ runsAlone (atW .br .powerUp) ∧ runsAlone (atW .br .initialized) ∧
    runsAlone (atW .br .idle) ∧ (atW .br .idle).ipc = .rest ∧ (atW .br .idle).irqPend = false := by decide

/-- L = 26 takes a pad and fills TX up to the guard: 5 + 26 + 1 = TX_CAP. -/
theorem witness_WarmUpWrite :
    32 = 5 + (26 : Half).toNat + padOf (26 : Half).toNat ∧ (asked .powerUp 26).cfg.wf = true ∧
    runsAlone (asked .powerUp 26) ∧ requestsLow (asked .powerUp 26) ∧ (asked .powerUp 26).cmdReady = true ∧
    (asked .powerUp 26).state = .powerUp ∧ (asked .initialized 26).state = .initialized ∧
    (asked .powerUp 26).cs = false ∧ (asked .powerUp 26).env.cmdValid = true ∧ (asked .powerUp 26).env.cmd = 2 ∧
    (asked .powerUp 26).env.wrLen = 26 ∧ (asked .powerUp 26).guardByte .tx = (asked .powerUp 26).cfg.sentinel ∧
    32 ≤ (asked .powerUp 26).cfg.txCap ∧ (asked .powerUp 26).env.timer = .auto ∧
    (asked .powerUp 26).env.canGive 32 := by decide

theorem witness_ExclusiveSequence :
    runsAlone (atW .cr1 .idle) ∧ runsAlone (atW .cr2 .idle) ∧ runsAlone (atW .cr3 .writeIrq) ∧
    runsAlone { atW .cr4 .writeIrq with irqS := true } ∧ runsAlone (atW .cr4 .writeIrq) ∧
    (atW .cr4 .writeIrq).irqS = false ∧ (atW .cr4 .writeIrq).irqPend = false ∧ (atW .cr4 .writeIrq).ipc = .rest := by
  decide

theorem witness_InlineWrite :
    6 = 5 + (0 : Half).toNat + padOf (0 : Half).toNat ∧ runsAlone { asked .idle 0 with irqS := true } ∧
    requestsLow { asked .idle 0 with irqS := true } ∧ (asked .idle 0).cmdReady = true ∧ (asked .idle 0).cs = false ∧
    (asked .idle 0).state = .idle ∧ (asked .idle 0).env.cmd = 2 ∧ (asked .idle 0).cfg.wf = true ∧
    (asked .idle 0).guardByte .tx = (asked .idle 0).cfg.sentinel ∧ 6 ≤ (asked .idle 0).cfg.txCap ∧
    (asked .idle 0).env.canGive 6 := by decide

theorem witness_ArmedWriteWaits :
    (asked .idle 5).cfg.wf = true ∧ runsAlone (asked .idle 5) ∧ (asked .idle 5).cmdReady = true ∧
    (asked .idle 5).state = .idle ∧ (asked .idle 5).cs = false ∧ (asked .idle 5).env.cmdValid = true ∧
    (asked .idle 5).env.cmd = 2 ∧ (asked .idle 5).guardByte .tx = (asked .idle 5).cfg.sentinel ∧
    (asked .idle 5).irqS = false := by decide

/-- An armed write of 10 bytes with its edge recorded. -/
def armed : State := { atW .fin .writeIrq with cs := true, irqPend := true, txLen := 10 }

theorem witness_ArmedWriteCompletes :
    runsAlone armed ∧ requestsLow armed ∧ armed.wpc = .fin ∧ armed.ipc = .rest ∧ armed.irqPend = true ∧
    armed.state = .writeIrq ∧ armed.cs = true ∧ armed.guardByte .tx = armed.cfg.sentinel ∧ armed.txLen ≠ 0 ∧
    armed.txPtr + armed.txLen.toNat ≤ armed.cfg.txCap + 1 ∧ armed.env.canGive armed.txLen.toNat := by decide

theorem witness_CallerHoldsForIdle :
    runsAlone (atW .spin .initialized) ∧ runsAlone (atW .spin .idle) ∧ runsAlone (atW .fin .writeIrq) ∧
    runsAlone (atW .fin .idle) ∧ (atW .fin .idle).irqPend = false ∧ (atW .fin .idle).ipc = .rest := by decide

/-- Every handshake label, with its request standing: unanswered, answered, and the shuttles with their last byte. -/
theorem witness_HandshakesHoldTheirLabel :
    runsAlone { atW .wu2 .powerUp with dReq := true, env := { Env.initial with timer := .silent } } ∧
    runsAlone { atW .wu4 .initialized with dReq := true, env := { Env.initial with timer := .acked } } ∧
    Peer.silent.acks = false ∧ Peer.acked.acks = true ∧ Env.initial.answer? = some (0x00, []) ∧
    { Env.initial with xAuto := none }.answer? = none ∧
    (∀ here ∈ [WLabel.wu3, .wu5, .il1],
      runsAlone { atW here .writeIrq with irqPend := here == .il1, txOpen := true, txRem := 1, xReq := true }) ∧
    runsAlone { atI .wr1 .writeIrq with txOpen := true, txRem := 2, xReq := true } ∧
    runsAlone { atI .rd3 .readIrq with rxOpen := true, rxRem := 1, xReq := true } ∧ 10 - (1 : Count).toNat ≤ 32 ∧
    runsAlone { atI .rd6 .readEot with rxOpen := true, rxN := 3, rxRem := 3, xReq := true } ∧
    nextIs (step { atW .wu2 .powerUp with dReq := true }) (fun t => decide (t.wpc = .wu3)) = true ∧
    nextIs (step { atW .wu3 .powerUp with txOpen := true, txRem := 1, xReq := true }) (fun t => decide (t.wpc = .wu4)) =
      true ∧
    nextIs (step { atI .rd6 .readEot with rxOpen := true, rxN := 3, rxRem := 3, xReq := true })
      (fun t => decide (t.ipc = .rd6) && decide (t.bufByte .rx 10 = 0x00)) = true := by decide

theorem witness_InterruptStarts :
    runsAlone { asked .idle 5 with irqPend := true } ∧ (asked .idle 5).ipc = .rest ∧ (asked .idle 5).wpc = .rest ∧
    runsAlone { atW .cr1 .idle with irqPend := true } ∧
    nextIs (step { asked .idle 5 with irqPend := true }) (fun t => decide (t.ipc = .take) && t.env.cmdValid) =
      true := by decide

theorem witness_InterruptInhibited :
    nextIs (step { atW .il3 .writeIrq with cs := true, irqPend := true }) (fun t => t.irqPend && decide (t.wpc = .fin)) =
      true ∧
    nextIs (step (atW .cr2 .idle)) (fun t => decide (t.wpc = .cr3)) = true ∧
    nextIs (step (atW .cr3 .writeIrq)) (fun t => decide (t.wpc = .cr4)) = true ∧
    nextIs (step (atW .cr4 .writeIrq)) (fun t => decide (t.wpc = .fin)) = true ∧
    nextIs (step { atW .il1 .writeIrq with txLen := 1 }) (fun t => decide (t.wpc = .il2)) = true ∧
    nextIs (step (atW .il2 .writeIrq)) (fun t => decide (t.wpc = .il3)) = true ∧
    runsAlone { atW .il1 .writeIrq with irqPend := true, txOpen := true, txRem := 1 } ∧
    Env.initial.answer? = some (0x00, []) ∧
    nextIs (step { atW .il1 .writeIrq with irqPend := true, txOpen := true, txRem := 1 })
      (fun t => decide (t.wpc = .il2) && decide (t.ipc = .rest)) = true := by decide

theorem witness_CallerFrozenWhileReading :
    runsAlone { atI .rd3 .readIrq with wpc := .br, cs := true } ∧
    nextIs (step { atI .rd3 .readIrq with wpc := .br, cs := true })
      (fun t => decide (t.wpc = .br) && decide (t.rxRem = 9)) = true ∧
    runsAlone { atI .take .powerUp with wpc := .wu3, cs := true, txOpen := true, txRem := 2, xReq := true } ∧
    nextIs (step { atI .take .powerUp with wpc := .wu3, cs := true, txOpen := true, txRem := 2, xReq := true })
      (fun t => decide (t.ipc = .rest) && t.xReq && decide (t.txRem = 2)) = true := by decide

/-- An edge is recorded in Idle, the coprocessor will answer with some bytes, the sink accepts. -/
def calling (replies : List Byte) : State :=
  { up .idle with irqPend := true, env := { Env.initial with replies := replies, sink := .auto } }

/-- The largest legal data length under P0 is 21 (vector P8 (c)). -/
def longHeader : List Byte := [0x02, 0x00, 0x00, 0x00, 0x00, 0x02, 0x00, 0x00, 0x15, 0x00]

/-- Length 23 lands on the guard (vector P8). -/
def overHeader : List Byte := [0x02, 0x00, 0x00, 0x00, 0x00, 0x02, 0x00, 0x00, 0x17, 0x00]

theorem witness_ReadOneFrame :
    runsAlone (calling longHeader) ∧ requestsLow (calling longHeader) ∧ (calling longHeader).irqPend = true ∧
    (calling longHeader).ipc = .rest ∧ inhibited (calling longHeader).wpc = false ∧
    (calling longHeader).state = .idle ∧ (calling longHeader).cs = false ∧
    (calling longHeader).guardByte .rx = (calling longHeader).cfg.sentinel ∧
    (calling longHeader).env.canGive (10 + (21 : Count).toNat) ∧ (calling longHeader).env.sink = .auto ∧
    decodeHeader (calling longHeader).cfg ((calling longHeader).env.gives 10) = some (.data, 21, 21) ∧
    10 + (21 : Count).toNat ≤ (calling longHeader).cfg.rxCap ∧
    decodeHeader Config.p0 ((calling otherHeader).env.gives 10) = some (.other, 0, 0) := by decide

theorem witness_OverrunIsCaught :
    runsAlone (calling overHeader) ∧ requestsLow (calling overHeader) ∧ (calling overHeader).irqPend = true ∧
    (calling overHeader).ipc = .rest ∧ inhibited (calling overHeader).wpc = false ∧
    (calling overHeader).state = .idle ∧ (calling overHeader).cs = false ∧
    (calling overHeader).guardByte .rx = (calling overHeader).cfg.sentinel ∧ (calling overHeader).cfg.wf = true ∧
    (calling overHeader).env.canGive (10 + (23 : Count).toNat) ∧
    decodeHeader (calling overHeader).cfg ((calling overHeader).env.gives 10) = some (.data, 23, 23) ∧
    10 + (23 : Count).toNat = (calling overHeader).cfg.rxCap + 1 ∧
    ((calling overHeader).env.gives (10 + (23 : Count).toNat)).getLast? ≠ some (calling overHeader).cfg.sentinel := by
  decide

theorem witness_ResetInput :
    (doing .reset { up .writeIrq with halted := true, cs := true }).env.script =
      { due := .now, act := .reset } :: [] := rfl

theorem witness_InvariantAtReset :
    Config.p0.wf = true ∧
    (pushItem { due := .now, act := .issue [0x11] } (pushItem { due := .atW .cr2, act := .line true }
      (pushItem { due := .still, act := .reset } State.reset))).portsOnly = true := by decide

theorem witness_InvariantKept :
    Inv State.reset ∧ Inv (up .idle) ∧ Inv { armed with ipc := .wr1, irqPend := false } ∧
    Inv { atI .rd3 .readIrq with cs := true, rxOpen := true, rxRem := 10, xReq := true } ∧
    nextIs (step { armed with ipc := .wr1, irqPend := false }) (fun t => decide (t.txRem = 9)) = true := by decide

/-- A run from reset of the kind the reachability rules speak of: INIT, then the acceptance of a write. -/
def booting : State :=
  doing (.issue [0x11]) (doing (.issue [0x12, 0x01, 0x00]) State.reset)

theorem witness_ChipSelectRule :
    Config.p0.wf = true ∧ booting.portsOnly = true ∧
    nextIs (runSteps 2 booting) (fun t => !t.halted && t.busy) = true := by decide

theorem witness_LiveStates :
    booting.portsOnly = true ∧ nextIs (runSteps 2 booting) (fun t => decide (t.state = .powerUp)) = true ∧
    nextIs (step (up .writeEot)) (fun t => decide (t.state = .writeEot)) = true ∧
    runsAlone (atI .take .readFirstPortion) ∧ runsAlone (atW .spin .writeFirstPortion) := by decide

theorem witness_ExchangesInsideTransactions :
    Inv { armed with ipc := .wr1, irqPend := false } ∧
    nextIs (step { atW .il1 .writeIrq with cs := true, tx := [(0, 0x01), (32, 0xDE)], txLen := 6 })
      (fun t => decide (t.trace = [.exchange 0x01 0x00])) = true ∧
    Inv { atW .il1 .writeIrq with cs := true, tx := [(0, 0x01), (32, 0xDE)], txLen := 6 } := by decide

theorem witness_PowerUpWriters :
    Inv (doing (.issue [0x11]) (up .idle)) ∧ (doing (.issue [0x11]) (up .idle)).resets = false ∧
    nextIs (step (doing (.issue [0x11]) (up .idle))) (fun t => decide (t.state = .powerUp)) = true ∧
    Inv (atI .take .powerUp) ∧ nextIs (step (atI .take .powerUp)) (fun t => decide (t.state = .initialized)) = true ∧
    nextIs (step { atW .wu7 .powerUp with cs := true }) (fun t => decide (t.wpc = .fin)) = true := by decide

theorem witness_InterruptBitWriters :
    Inv { atW .cr4 .writeIrq with cs := true, irqEn := false } ∧
    nextIs (step { atW .cr4 .writeIrq with cs := true, irqEn := false }) (fun t => t.irqEn) = true ∧
    Inv (atW .cr1 .idle) ∧ nextIs (step (atW .cr1 .idle)) (fun t => !t.irqEn) = true ∧
    Inv { atI .take .idle with irqPend := true } ∧
    nextIs (step { atI .take .idle with irqPend := true }) (fun t => !t.irqPend) = true ∧
    Inv (doing (.issue [0x50]) (up .idle)) ∧
    nextIs (step (doing (.issue [0x50]) (up .idle))) (fun t => t.irqPend) = true := by decide

theorem witness_BufferWriters :
    Inv (atW .hdr .idle) ∧ (atW .hdr .idle).resets = false ∧ (atW .hdr .idle).hostStores = false ∧
    nextIs (step { atW .hdr .idle with tx := [(4, 0x77), (32, 0xDE)] }) (fun t => decide (t.bufByte .tx 4 = 0x00)) =
      true ∧
    nextIs (step { atI .rd6 .readEot with cs := true, rxN := 1, rx := [(10, 0x77), (32, 0xDE)] })
      (fun t => decide (t.bufByte .rx 10 = 0x00)) = true := by decide

theorem witness_ParametersAndTraceKept :
    nextIs (step (doing .reset (up .idle))) (fun t => decide (t.cfg = Config.p0)) = true := by decide

theorem witness_RestState :
    Inv (up .idle) ∧ (up .idle).wpc = .rest ∧ (up .idle).ipc = .rest ∧ (up .idle).irqPend = false ∧
    (up .idle).halted = false ∧ (up .idle).runStatus = .ended ∧
    State.runStatus { up .idle with halted := true } = .halted ∧
    State.runStatus { atW .fin .writeIrq with cs := true } = .holding ∧
    State.runStatus { atW .fin .writeIrq with irqPend := true } = .running ∧ (asked .idle 5).runStatus = .running ∧
    State.runStatus (doing .pass (up .idle)) = .running := by decide

theorem witness_CanonicalBuffers : Memory.wf [(0, 0x01), (5, 0xB1), (32, 0xDE)] = true := by decide

end Sys2Proof.Tests
end

section
/-! Settles the family of 00_scope.md: buffers as data (O60) and the operation that an issued word runs (O5). -/

namespace Sys2Proof.Machine

/-! ## Canonical buffers (00_scope.md R15, 20_memory.md R60) -/

/-- In a canonical buffer the bytes read are exactly the cells listed. -/
theorem Memory.read_eq_some_iff_mem {m : Memory} (h : Memory.wf m = true) (i : Nat) (v : Byte) :
    m.read? i = some v ↔ (i, v) ∈ m := by
  induction m with
  | nil => simp [Memory.read?]
  | cons cell rest ih =>
    obtain ⟨a, b⟩ := cell
    obtain ⟨hrest, hbelow⟩ := Memory.wf_cons.mp h
    by_cases hai : a = i
    · subst hai
      have hrest_notMem : (a, v) ∉ rest := fun hmem => Nat.lt_irrefl a (hbelow _ hmem)
      simp [Memory.read?, hrest_notMem, eq_comm]
    · simp [Memory.read?, hai, Ne.symm hai, ih hrest]

/-- Canonical buffers that list the same cells have the same first cell: neither can lie below the other. -/
theorem Memory.head_eq_of_mem_iff {x y : Host.Cell} {a b : Memory} (ha : Memory.wf (x :: a) = true)
    (hb : Memory.wf (y :: b) = true) (h : ∀ c, c ∈ x :: a ↔ c ∈ y :: b) : x = y := by
  rcases List.mem_cons.mp ((h x).mp List.mem_cons_self) with hxy | hx
  · exact hxy
  · rcases List.mem_cons.mp ((h y).mpr List.mem_cons_self) with hyx | hy
    · exact hyx.symm
    · have hyx : y.1 < x.1 := (Memory.wf_cons.mp hb).2 x hx
      have hxy : x.1 < y.1 := (Memory.wf_cons.mp ha).2 y hy
      exact absurd hxy (Nat.lt_asymm hyx)

/-- A cell after the head is one of the tail. -/
theorem Memory.mem_tail_iff {x c : Host.Cell} {m : Memory} (hm : Memory.wf (x :: m) = true) :
    c ∈ m ↔ c ∈ x :: m ∧ x.1 < c.1 := by
  constructor
  · exact fun hc => ⟨List.mem_cons_of_mem x hc, (Memory.wf_cons.mp hm).2 c hc⟩
  · rintro ⟨hc, hlt⟩
    rcases List.mem_cons.mp hc with rfl | hc
    · exact absurd hlt (Nat.lt_irrefl _)
    · exact hc

/-- Canonical buffers that list the same cells list them in the same order. -/
theorem Memory.eq_of_mem_iff {a b : Memory} (ha : Memory.wf a = true) (hb : Memory.wf b = true)
    (h : ∀ c, c ∈ a ↔ c ∈ b) : a = b := by
  induction a generalizing b with
  | nil => exact (List.eq_nil_iff_forall_not_mem.mpr fun c hc => List.not_mem_nil ((h c).mpr hc)).symm
  | cons x a ih =>
    cases b with
    | nil => exact absurd ((h x).mp List.mem_cons_self) List.not_mem_nil
    | cons y b =>
      obtain rfl : x = y := Memory.head_eq_of_mem_iff ha hb h
      have htail : ∀ c, c ∈ a ↔ c ∈ b := fun c => by rw [Memory.mem_tail_iff ha, Memory.mem_tail_iff hb, h]
      rw [ih (Memory.wf_cons.mp ha).1 (Memory.wf_cons.mp hb).1 htail]

/-- Canonical buffers that read alike are the same list. -/
theorem Memory.eq_of_read_eq {a b : Memory} (ha : Memory.wf a = true) (hb : Memory.wf b = true)
    (h : ∀ i, a.read? i = b.read? i) : a = b := by
  refine Memory.eq_of_mem_iff ha hb fun ⟨i, v⟩ => ?_
  rw [← Memory.read_eq_some_iff_mem ha, ← Memory.read_eq_some_iff_mem hb, h]

/-- The later of two writes to one index stands. -/
theorem Memory.write_write {m : Memory} (i : Nat) (v w : Byte) (h : Memory.wf m = true) :
    (m.write i v).write i w = m.write i w := by
  refine Memory.eq_of_read_eq (Memory.wf_write i w (Memory.wf_write i v h)) (Memory.wf_write i w h) fun j => ?_
  simp only [Memory.read_write]
  split <;> rfl

/-- Settles O60: a canonical buffer is the strictly rising list of the cells it reads. -/
theorem canonicalBuffers : Obligations.CanonicalBuffers :=
  ⟨fun _ _ => Memory.eq_of_read_eq, fun m i v w h =>
    ⟨Memory.wf_write i v h, Memory.read_write_same m i v,
      fun _ hj => Memory.read_write_other m v (Ne.symm hj), Memory.write_write i v w h⟩⟩

/-! ## Issued operations (00_scope.md R17, 30_encoding.md R114, R115; log 17, 18) -/

/-- The environment's own operations run whole, halted or not. -/
theorem issueOp_environmental {i : Instr} (h : environmental i = true) (s : State) : issueOp i s = exec i s := by
  simp [issueOp, h]

/-- Any other issued operation goes to the uop bus. -/
theorem issueOp_uop {i : Instr} (h : environmental i = false) (s : State) : issueOp i s = issueUop i s := by
  simp [issueOp, h]

/-- Nothing on the uop bus moves while halted (60_exceptions.md R221). -/
theorem issueUop_halted {s : State} (i : Instr) (h : s.halted = true) : issueUop i s = .fault .corruption := by
  simp [issueUop, h]

/-- One micro-step on the uop bus: the operation stays there until it is done. -/
theorem issueUop_running {s : State} (i : Instr) (h : s.halted = false) :
    issueUop i s = andThen (fun t => if issueDone i t then t else { t with uop := some i })
      (exec i { s with uop := none }) := by
  simp [issueUop, h]

@[simp] theorem dropItem_halted (s : State) : (dropItem s).halted = s.halted := rfl

/-- Settles O5: the step issues the decoded operation, and the issue is split on who runs it and on the halt. -/
theorem issuedWordRuns : Obligations.IssuedWordRuns := by
  refine ⟨fun s item later word left i hscript hdue hact hword => ?_, fun s i hscript hrun hbus => ?_⟩
  · have hstep : step s = issueOp i (dropItem s) := step_issue hscript hdue hact hword
    refine ⟨fun henv => ?_, fun henv hhalt => ?_, fun henv hrun => ?_⟩
    · rw [hstep, issueOp_environmental henv]
    · rw [hstep, issueOp_uop henv, issueUop_halted i ((dropItem_halted s).trans hhalt)]
    · rw [hstep, issueOp_uop henv, issueUop_running i ((dropItem_halted s).trans hrun)]
  · rw [step_alone hscript, seqStep_uop hrun hbus, issueUop_running i hrun]

end Sys2Proof.Machine
end

section
/-! Settles the family of 10_state.md. This part is its ground: what holds of every next state of a result, what a
step boundary can run, and what every operation keeps. -/

namespace Sys2Proof.Machine

/-! ## What holds of the next state of a result -/

/-- Every next state of a result has a property; a fault and a refusal have none. -/
def Ensures (P : State → Prop) : Result → Prop
  | .next t => P t
  | .fault _ => True
  | .refused _ => True

theorem ensures_iff {P : State → Prop} {r : Result} : Ensures P r ↔ ∀ t, r = .next t → P t := by
  cases r <;> simp [Ensures]

theorem Ensures.of_next {P : State → Prop} {r : Result} {t : State} (h : Ensures P r) (ht : r = .next t) : P t :=
  ensures_iff.mp h t ht

theorem Ensures.imp {P Q : State → Prop} {r : Result} (h : Ensures P r) (hPQ : ∀ u, P u → Q u) : Ensures Q r :=
  ensures_iff.mpr fun u hu => hPQ u (h.of_next hu)

/-- A change after an operation, by what the operation ensures. -/
theorem Ensures.andThen {P Q : State → Prop} {r : Result} {f : State → State} (h : Ensures Q r)
    (hf : ∀ u, Q u → P (f u)) : Ensures P (andThen f r) := by
  cases r with
  | next u => exact hf u h
  | fault r => trivial
  | refused r => trivial

/-- A sequencer's micro-step, by what its operation ensures: it goes on where the operation is done, else stays. -/
theorem Ensures.whenDone {P Q : State → Prop} {r : Result} {done : State → Bool} {f : State → State}
    (h : Ensures Q r) (hgo : ∀ u, Q u → done u = true → P (f u)) (hstay : ∀ u, Q u → done u = false → P u) :
    Ensures P (whenDone done f r) := by
  refine h.andThen fun u hu => ?_
  cases hd : done u with
  | true => exact hgo u hu hd
  | false => exact hstay u hu hd

/-! ## What a step boundary runs -/

/-- HDST's own move, by the priority of 60_exceptions.md R229. -/
theorem seqStep_ensures {P : State → Prop} {s : State} (hbus : ∀ i, s.uop = some i → Ensures P (issueUop i s))
    (hpath : s.ipc ≠ .rest → Ensures P (iStep s)) (hstart : s.irqStart = true → P (irqEnter s))
    (hcaller : s.halted = false → s.ipc = .rest → s.irqStart = false → Ensures P (wStep s))
    (hcommand : Ensures P (exec s.portCommand s)) : Ensures P (seqStep s) := by
  cases hh : s.halted with
  | true => rw [seqStep_halted hh]; trivial
  | false =>
    cases hu : s.uop with
    | some i => rw [seqStep_uop hh hu]; exact hbus i hu
    | none =>
      by_cases hi : s.ipc = .rest
      · cases hs : s.irqStart with
        | true => rw [seqStep_irqStart hu hs]; exact hstart hs
        | false =>
          by_cases hw : s.wpc = .rest
          · rw [seqStep_command hh hu hi hs hw]; exact hcommand
          · rw [seqStep_caller hh hu hi hs hw]; exact hcaller hh hi hs
      · rw [seqStep_irqPath hh hu hi]; exact hpath hi

/-- The step at a boundary: HDST moves, an issued word is carried out, or the environment acts (00_scope.md R17). -/
theorem step_ensures {P : State → Prop} {s : State} (hown : Ensures P (seqStep s))
    (hpass : ∀ item rest, s.env.script = item :: rest → Ensures P (seqStep (dropItem s)))
    (hissue : ∀ item rest word left i, s.env.script = item :: rest → item.act = .issue word →
      decode s.cfg word = .ok (i, left) → Ensures P (issueOp i (dropItem s)))
    (hact : ∀ item rest, s.env.script = item :: rest → Ensures P (applyAction item.act (dropItem s))) :
    Ensures P (step s) := by
  cases hscript : s.env.script with
  | nil => rw [step_alone hscript]; exact hown
  | cons item rest =>
    cases hdue : s.isDue item.due with
    | false => rw [step_notDue hscript hdue]; exact hown
    | true =>
      rw [step_due hscript hdue]
      have hother := hact item rest hscript
      cases ha : item.act with
      | pass => exact hpass item rest hscript
      | issue word =>
        cases hw : decode s.cfg word with
        | error e =>
          have hdrop : decode (dropItem s).cfg word = .error e := hw
          simp only [boundaryStep, hdrop]; trivial
        | ok r =>
          have hdrop : decode (dropItem s).cfg word = .ok r := hw
          simp only [boundaryStep, hdrop]; exact hissue item rest word r.2 r.1 hscript ha hw
      | _ => rw [ha] at hother; exact hother

/-- A property that every step keeps holds at the end of every run from a state that has it. -/
theorem runSteps_invariant {P : State → Prop} (hstep : ∀ s, P s → Ensures P (step s)) {k : Nat} {s t : State}
    (h : P s) (ht : runSteps k s = .next t) : P t := by
  induction k generalizing s with
  | zero => cases ht; exact h
  | succ k ih =>
    cases hs : step s with
    | next u => rw [runSteps_succ hs] at ht; exact ih ((hstep s h).of_next hs) ht
    | fault r => simp [runSteps, hs] at ht
    | refused r => simp [runSteps, hs] at ht

/-! ## Buffers within their bounds -/

theorem bufferOk_iff {m : Memory} {cap : Nat} :
    bufferOk m cap = true ↔ Memory.wf m = true ∧ ∀ c ∈ m, c.1 ≤ cap := by simp [bufferOk]

theorem bufferOk_writeBytes {m : Memory} {cap : Nat} (i : Nat) (bs : List Byte) (h : bufferOk m cap = true)
    (hi : i + bs.length ≤ cap + 1) : bufferOk (m.writeBytes i bs) cap = true := by
  obtain ⟨hwf, hcap⟩ := bufferOk_iff.mp h
  refine bufferOk_iff.mpr ⟨Memory.wf_writeBytes i bs hwf, fun c hc => ?_⟩
  rcases Memory.mem_writeBytes hc with hnew | hold
  · omega
  · exact hcap c hold

/-- Both buffers are canonical and within their guards. -/
def buffersOk (s : State) : Prop := ∀ sp, bufferOk (s.mem sp) (s.cap sp) = true

theorem buffersOk_iff {s : State} :
    buffersOk s ↔ bufferOk s.tx s.cfg.txCap = true ∧ bufferOk s.rx s.cfg.rxCap = true :=
  ⟨fun h => ⟨h .tx, h .rx⟩, fun h sp =>
    match sp with
    | .tx => h.1
    | .rx => h.2⟩

theorem buffersOk_store {s : State} (sp : Space) (i : Nat) (bs : List Byte) (h : buffersOk s)
    (hi : i + bs.length ≤ s.cap sp + 1) : buffersOk (s.store sp i bs) := by
  obtain ⟨htx, hrx⟩ := buffersOk_iff.mp h
  cases sp with
  | tx => exact buffersOk_iff.mpr ⟨bufferOk_writeBytes i bs htx hi, hrx⟩
  | rx => exact buffersOk_iff.mpr ⟨htx, bufferOk_writeBytes i bs hrx hi⟩

theorem cap_ge_of_wf {c : Config} (h : c.wf = true) : 6 ≤ c.txCap ∧ 10 ≤ c.rxCap := by
  simp only [Config.wf, Bool.and_eq_true, decide_eq_true_eq] at h
  exact ⟨h.1.1.2, h.1.2⟩

/-! ## What operations keep -/

/-- The three values of `state` that no rule writes (10_state.md R44). -/
def deadState : TransportState → Bool
  | .writeFirstPortion | .writeEot | .readFirstPortion => true
  | .powerUp | .initialized | .idle | .writeIrq | .readIrq | .readEot => false

/-- What every step does: the parameters stay, the trace grows, and a dead value of `state` is only kept. -/
structure Continues (s t : State) : Prop where
  cfg : t.cfg = s.cfg := by rfl
  trace : s.trace <:+ t.trace := by exact List.suffix_rfl
  live : deadState t.state = true → t.state = s.state := by exact fun _ => rfl

/-- What every operation but a reset does besides: script, uop bus and length of the synchroniser stay, and so does
the form of the buffers. -/
structure Keeps (s t : State) : Prop extends Continues s t where
  uop : t.uop = s.uop := by rfl
  script : t.env.script = s.env.script := by rfl
  chain : t.irqChain.length = s.irqChain.length := by rfl
  bounded : s.cfg.wf = true → buffersOk s → buffersOk t := by exact fun _ h => h

/-- What the operations on buffers, codec and ports do besides: they leave the control registers as they are. -/
structure DataMove (s t : State) : Prop extends Keeps s t where
  state : t.state = s.state := by rfl
  wpc : t.wpc = s.wpc := by rfl
  ipc : t.ipc = s.ipc := by rfl
  cs : t.cs = s.cs := by rfl
  irqEn : t.irqEn = s.irqEn := by rfl
  irqPend : t.irqPend = s.irqPend := by rfl

theorem Continues.trans {s t u : State} (hst : Continues s t) (htu : Continues t u) : Continues s u where
  cfg := htu.cfg.trans hst.cfg
  trace := hst.trace.trans htu.trace
  live := fun hd => (htu.live hd).trans (hst.live (htu.live hd ▸ hd))

theorem Keeps.trans {s t u : State} (hst : Keeps s t) (htu : Keeps t u) : Keeps s u where
  toContinues := hst.toContinues.trans htu.toContinues
  uop := htu.uop.trans hst.uop
  script := htu.script.trans hst.script
  chain := htu.chain.trans hst.chain
  bounded := fun hc hb => htu.bounded (hst.cfg ▸ hc) (hst.bounded hc hb)

theorem DataMove.trans {s t u : State} (hst : DataMove s t) (htu : DataMove t u) : DataMove s u where
  toKeeps := hst.toKeeps.trans htu.toKeeps
  state := htu.state.trans hst.state
  wpc := htu.wpc.trans hst.wpc
  ipc := htu.ipc.trans hst.ipc
  cs := htu.cs.trans hst.cs
  irqEn := htu.irqEn.trans hst.irqEn
  irqPend := htu.irqPend.trans hst.irqPend

theorem Keeps.refl (s : State) : Keeps s s := {}

/-! ### The operations on the datapath -/

theorem store_continues (s : State) (sp : Space) (i : Nat) (bs : List Byte) : Continues s (s.store sp i bs) := by
  cases sp <;> exact {}

theorem store_dataMove {s : State} {sp : Space} {i : Nat} {bs : List Byte}
    (hi : s.cfg.wf = true → i + bs.length ≤ s.cap sp + 1) : DataMove s (s.store sp i bs) := by
  have hb : s.cfg.wf = true → buffersOk s → buffersOk (s.store sp i bs) := fun hc h =>
    buffersOk_store sp i bs h (hi hc)
  cases sp <;> exact { bounded := hb }

theorem setDecoded_dataMove (kind : FrameKind) (len : Half) (n : Count) (s : State) :
    DataMove s (setDecoded kind len n s) := {}

theorem checkGuard_dataMove (sp : Space) (site : Site) (s : State) : DataMove s (checkGuard sp site s) := by
  unfold checkGuard
  split
  · exact {}
  · exact { trace := List.suffix_cons _ _ }

/-- The trace at most one event longer. -/
theorem suffix_ite_cons (c : Bool) (e : Event) (l : List Event) : l <:+ if c then l else e :: l := by
  cases c
  · exact List.suffix_cons _ _
  · exact List.suffix_rfl

theorem xchg_dataMove (b : Byte) (s : State) : DataMove s (xchg b s) := by
  rcases xchg_cases b s with ⟨_, hx⟩ | ⟨r, rest, _, hx⟩ <;> rw [hx]
  · exact {}
  · exact { trace := List.suffix_cons _ _ }

theorem delayUs_dataMove (n : Half) (s : State) : DataMove s (delayUs n s) := by
  rw [delayUs_cases]
  exact { trace := suffix_ite_cons _ _ _, script := by cases s.env.timer.acks <;> rfl }

theorem deliver_dataMove (ptr : Nat) (len : Half) (s : State) : DataMove s (deliver ptr len s) := by
  rw [deliver_cases]
  exact { trace := suffix_ite_cons _ _ _, script := by cases s.env.sink.acks <;> rfl }

theorem loadTx_dataMove (n : Count) (s : State) : DataMove s (loadTx n s) := by
  unfold loadTx
  split <;> exact {}

theorem loadRx_dataMove (n : Count) (s : State) : DataMove s (loadRx n s) := by
  unfold loadRx
  split <;> exact {}

theorem shuttleTx_dataMove (base : Nat) (n : Count) (s : State) : DataMove s (shuttleTx base n s) := by
  have hload := loadTx_dataMove n s
  rcases shuttleTx_cases base n s with ⟨_, ht⟩ | ⟨_, _, ht⟩ | ⟨r, rest, _, _, ht⟩ <;> rw [ht]
  · exact hload.trans {}
  · rw [raiseFromTx_eq]; exact hload.trans {}
  · rw [raiseFromTx_eq]
    exact { hload with trace := List.suffix_cons _ _, script := rfl }

theorem shuttleRx_dataMove (base : Nat) (n k0 : Count) (s : State) :
    Ensures (DataMove s) (shuttleRx base n k0 s) := by
  have hload := loadRx_dataMove n s
  rcases shuttleRx_cases base n k0 s with
    ⟨_, ht⟩ | ⟨_, _, ht⟩ | ⟨r, rest, _, _, hi, ht⟩ | ⟨_, _, _, ht⟩ <;> rw [ht]
  · exact hload.trans {}
  · exact hload.trans (xchg_dataMove _ _)
  · have hx := hload.trans (xchg_dataMove (rdTxAt s.cfg (k0.toNat + cursor n (loadRx n s).rxRem)) (loadRx n s))
    generalize xchg _ _ = u at hx ⊢
    refine { hx with trace := hx.trace, bounded := fun hc h => buffersOk_iff.mpr ⟨hx.bounded hc h .tx, ?_⟩ }
    show bufferOk (s.rx.writeBytes _ [r]) u.cfg.rxCap = true
    rw [hx.cfg]
    exact bufferOk_writeBytes _ [r] (h .rx) (Nat.succ_le_succ hi)
  · trivial

/-! ### The operations on the control registers -/

theorem setState_keeps {v : TransportState} (hv : deadState v = false) (s : State) : Keeps s (setState v s) :=
  { live := fun hd => absurd hd (by simp [hv]), trace := List.suffix_cons _ _ }

theorem goW_keeps (l : WLabel) (s : State) : Keeps s (goW l s) := {}
theorem goI_keeps (l : ILabel) (s : State) : Keeps s (goI l s) := {}
theorem takeEdge_keeps (s : State) : Keeps s (takeEdge s) := {}

theorem csAssert_keeps (s : State) : Keeps s (csAssert s) := by
  rw [csAssert_eq]
  exact { trace := suffix_ite_cons _ _ _ }

theorem csDeassert_keeps (s : State) : Keeps s (csDeassert s) := by
  unfold csDeassert
  split
  · exact { trace := List.suffix_cons _ _ }
  · exact {}

theorem irqEnable_keeps (s : State) : Keeps s (irqEnable s) := { trace := List.suffix_cons _ _ }
theorem irqDisable_keeps (s : State) : Keeps s (irqDisable s) := { trace := List.suffix_cons _ _ }
theorem irqLevel_dataMove (s : State) : DataMove s (irqLevel s) := { trace := List.suffix_cons _ _ }

theorem clockEdge_keeps (level : Bool) (s : State) : Keeps s (clockEdge level s) :=
  { chain := syncShift_length s.irqMeta s.irqChain }

theorem clockEdges_keeps (level : Bool) (n : Nat) (s : State) : Keeps s (clockEdges level n s) := by
  induction n generalizing s with
  | zero => exact {}
  | succ n ih => exact (clockEdge_keeps level s).trans (ih (clockEdge level s))

theorem addReplies_dataMove (bytes : List Byte) (s : State) : DataMove s (addReplies bytes s) := {}

/-- EDGE is clock edges with the line low, then with the line high. -/
theorem lineEdge_keeps (s : State) : Keeps s (lineTo true (lineTo false s)) :=
  (clockEdges_keeps false _ s).trans (clockEdges_keeps true _ (lineTo false s))

/-! ### The commands -/

theorem withdraw_dataMove (s : State) : DataMove s (withdraw s) := {}
theorem present_dataMove (cmd : BitVec 2) (len : Half) (s : State) : DataMove s (present cmd len s) := {}

theorem hostCommand_keeps {cmd : BitVec 2} {len : Half} {effect : State → State}
    (he : ∀ u, Keeps u (effect u)) (s : State) : Keeps s (hostCommand cmd len effect s) := by
  cases hr : s.cmdReady with
  | true => rw [hostCommand_ready hr]; exact (withdraw_dataMove s).toKeeps.trans (he _)
  | false => rw [hostCommand_held hr]; exact (present_dataMove cmd len s).toKeeps

theorem initStep_keeps (s : State) : Keeps s (initStep s) := by
  have hrx : DataMove s (s.store .rx s.cfg.rxCap [s.cfg.sentinel]) := store_dataMove fun _ => Nat.le_refl _
  have htx := hrx.trans (store_dataMove (sp := .tx) (i := s.cfg.txCap) (bs := [s.cfg.sentinel]) fun _ => Nat.le_refl _)
  exact ((htx.toKeeps.trans (setState_keeps rfl _)).trans (irqEnable_keeps _)).trans (goW_keeps .rest _)

theorem acceptWrite_keeps (len : Half) (s : State) : Keeps s (acceptWrite len s) := {}

theorem hostStore_dataMove (sp : Space) (i : Nat) (bs : List Byte) (s : State) :
    Ensures (DataMove s) (hostStore sp i bs s) := by
  rcases hostStore_cases sp i bs s with ⟨hi, hs⟩ | ⟨_, hs⟩ <;> rw [hs]
  · cases s.halted
    · exact store_dataMove fun _ => hi
    · exact {}
  · trivial

/-! ### Every operation -/

/-- A read header is no longer than RX: the ten bytes of 30_encoding.md R95. -/
def headerFits : Instr → Prop
  | .rdframeData h | .rdframeEvent h | .rdframeOther h => h.length ≤ 10
  | _ => True

theorem rdframe_dataMove {s : State} (kind : FrameKind) (len : Half) (n : Count) {h : List Byte}
    (hh : h.length ≤ 10) : DataMove s (setDecoded kind len n (s.store .rx 0 h)) := by
  have hstore : DataMove s (s.store .rx 0 h) := store_dataMove fun hc => by
    have := (cap_ge_of_wf hc).2
    simp only [cap_rx]
    omega
  exact hstore.trans (setDecoded_dataMove _ _ _ _)

theorem buildHdr_dataMove (len : Half) (s : State) : Ensures (DataMove s) (exec (.buildHdr len) s) := by
  have hregs : DataMove s { s with pad := writePad len, txTot := writeTotal len } := {}
  refine hregs.trans (store_dataMove fun hc => ?_)
  have : 6 ≤ s.cfg.txCap := (cap_ge_of_wf hc).1
  show 0 + 5 ≤ s.cfg.txCap + 1
  omega

theorem wrframe_keeps (tag lengthHi lengthLo : Byte) (s : State) :
    Ensures (Keeps s) (exec (.wrframe tag lengthHi lengthLo) s) := by
  have hhead : Keeps s (if s.txOpen then s else csAssert (s.store .tx 0 (headerBytes tag lengthHi lengthLo))) := by
    split
    · exact {}
    · refine (store_dataMove fun hc => ?_).toKeeps.trans (csAssert_keeps _)
      have : 6 ≤ s.cfg.txCap := (cap_ge_of_wf hc).1
      show 0 + 5 ≤ s.cfg.txCap + 1
      omega
  have hsent := hhead.trans (shuttleTx_dataMove 0 (frameTotal lengthHi lengthLo) _).toKeeps
  simp only [exec, execWrframe, Ensures]
  generalize shuttleTx 0 _ _ = u at *
  cases u.txOpen
  · exact hsent.trans (csDeassert_keeps u)
  · exact hsent

theorem decodeHdr_dataMove (s : State) : Ensures (DataMove s) (exec .decodeHdr s) := by
  simp only [exec, execDecodeHdr]
  split
  · exact setDecoded_dataMove _ _ _ s
  · trivial

theorem rdframeEvent_keeps {h : List Byte} (hh : h.length ≤ 10) (s : State) :
    Ensures (Keeps s) (exec (.rdframeEvent h) s) := by
  simp only [exec, execRdframeEvent]
  split
  · exact (rdframe_dataMove _ _ _ hh).toKeeps
  · trivial

/-- Every operation keeps what `Keeps` says, in every state. -/
theorem exec_keeps {i : Instr} (hi : headerFits i) (s : State) : Ensures (Keeps s) (exec i s) := by
  cases i with
  | nocmd => exact (withdraw_dataMove s).toKeeps
  | init => exact hostCommand_keeps initStep_keeps s
  | submitWrite len => exact hostCommand_keeps (acceptWrite_keeps len) s
  | cmdReserved => exact hostCommand_keeps Keeps.refl s
  | onIrqPowerup => exact ((takeEdge_keeps s).trans (setState_keeps rfl _)).trans (goI_keeps .rest _)
  | onIrqOther code => exact (takeEdge_keeps s).trans (goI_keeps .rest _)
  | onIrqIdle => exact (takeEdge_keeps s).trans (goI_keeps .rd1 _)
  | onIrqWriteirq => exact (takeEdge_keeps s).trans (goI_keeps .wr1 _)
  | csAssert => exact csAssert_keeps s
  | csDeassert => exact csDeassert_keeps s
  | xchg b => exact (xchg_dataMove b s).toKeeps
  | delayUs n => exact (delayUs_dataMove n s).toKeeps
  | irqEn => exact irqEnable_keeps s
  | irqDis => exact irqDisable_keeps s
  | irqLvl => exact (irqLevel_dataMove s).toKeeps
  | deliver ptr len => exact (deliver_dataMove ptr len s).toKeeps
  | checkGuard sp site => exact (checkGuard_dataMove sp site s).toKeeps
  | buildHdr len => exact (buildHdr_dataMove len s).imp fun _ => DataMove.toKeeps
  | decodeHdr => exact (decodeHdr_dataMove s).imp fun _ => DataMove.toKeeps
  | shuttleTx base n => exact (shuttleTx_dataMove base n s).toKeeps
  | shuttleRx base n k0 => exact (shuttleRx_dataMove base n k0 s).imp fun _ => DataMove.toKeeps
  | uopNone => exact Keeps.refl s
  | wrframe tag lengthHi lengthLo => exact wrframe_keeps tag lengthHi lengthLo s
  | rdframeData h => exact (rdframe_dataMove _ _ _ hi).toKeeps
  | rdframeEvent h => exact rdframeEvent_keeps hi s
  | rdframeOther h => exact (rdframe_dataMove _ _ _ hi).toKeeps
  | edge => exact lineEdge_keeps s
  | frameIn bytes => exact (addReplies_dataMove bytes s).toKeeps.trans (lineEdge_keeps _)
  | write len payload =>
    exact (hostStore_dataMove .tx 5 payload s).andThen fun u hu =>
      hu.toKeeps.trans (hostCommand_keeps (acceptWrite_keeps len) u)

theorem exec_continues (i : Instr) (s : State) : Ensures (Continues s) (exec i s) := by
  have hkept : headerFits i → Ensures (Continues s) (exec i s) := fun hi =>
    (exec_keeps hi s).imp fun _ => Keeps.toContinues
  cases i with
  | rdframeData h => exact (store_continues s .rx 0 h).trans (setDecoded_dataMove _ _ _ _).toContinues
  | rdframeOther h => exact (store_continues s .rx 0 h).trans (setDecoded_dataMove _ _ _ _).toContinues
  | rdframeEvent h =>
    simp only [exec, execRdframeEvent]
    split
    · exact (store_continues s .rx 0 h).trans (setDecoded_dataMove _ _ _ _).toContinues
    · trivial
  | _ => exact hkept trivial

theorem environmental_headerFits {i : Instr} (h : environmental i = true) : headerFits i := by
  cases i with
  | rdframeData _ | rdframeEvent _ | rdframeOther _ => cases h
  | _ => trivial

theorem portCommand_environmental (s : State) : environmental s.portCommand = true := by
  unfold State.portCommand decodeCmd
  split
  · split <;> rfl
  · rfl

theorem decodeIrq_headerFits (code : BitVec 4) : headerFits (decodeIrq code) := by
  unfold decodeIrq
  split <;> trivial

/-! ### The sequencers, the environment and the whole step -/

theorem recordFrame_keeps (s : State) : Keeps s (recordFrame s) :=
  (setState_keeps (v := .writeIrq) rfl s).trans {}

theorem sampleLevel_keeps (s : State) : Keeps s (sampleLevel s) :=
  (irqLevel_dataMove s).toKeeps.trans {}

/-- An operation, then a change: both keep. -/
theorem andThen_keeps {s : State} {i : Instr} {f : State → State} (hi : headerFits i) (hf : ∀ u, Keeps u (f u)) :
    Ensures (Keeps s) (andThen f (exec i s)) :=
  (exec_keeps hi s).andThen fun u hu => hu.trans (hf u)

/-- An operation, then a change when it is done: both keep. -/
theorem whenDone_keeps {s : State} {i : Instr} {done : State → Bool} {f : State → State} (hi : headerFits i)
    (hf : ∀ u, Keeps u (f u)) : Ensures (Keeps s) (whenDone done f (exec i s)) :=
  (exec_keeps hi s).whenDone (fun u hu _ => hu.trans (hf u)) fun _ hu _ => hu

theorem finish_keeps (l : WLabel) (s : State) : Keeps s (goW l (setState .idle s)) :=
  (setState_keeps rfl s).trans (goW_keeps l _)

theorem wStep_keeps (s : State) : Ensures (Keeps s) (wStep s) := by
  unfold wStep
  split
  · exact Keeps.refl s
  · exact initStep_keeps s
  · exact acceptWrite_keeps s.env.wrLen s
  · exact whenDone_keeps (i := .checkGuard .tx .ckWb) trivial (goW_keeps .hdr)
  · exact andThen_keeps (i := .buildHdr s.wrL) trivial (goW_keeps .br)
  · exact goW_keeps _ s
  · exact andThen_keeps (i := .csAssert) trivial (goW_keeps .wu2)
  · exact whenDone_keeps (i := .delayUs s.cfg.tWarm) trivial (goW_keeps .wu3)
  · exact whenDone_keeps (i := .shuttleTx 0 4) trivial (goW_keeps .wu4)
  · exact whenDone_keeps (i := .delayUs s.cfg.tWarm) trivial (goW_keeps .wu5)
  · exact whenDone_keeps (i := .shuttleTx 4 (s.txTot - 4)) trivial (goW_keeps .wu6)
  · exact whenDone_keeps (i := .checkGuard .tx .ckWe) trivial (goW_keeps .wu7)
  · exact andThen_keeps (i := .csDeassert) trivial (finish_keeps .fin)
  · split
    · exact goW_keeps .cr1 s
    · exact Keeps.refl s
  · exact andThen_keeps (i := .irqDis) trivial (goW_keeps .cr2)
  · exact (recordFrame_keeps s).trans (goW_keeps .cr3 _)
  · exact andThen_keeps (i := .csAssert) trivial (goW_keeps .cr4)
  · exact andThen_keeps (i := .irqEn) trivial sampleLevel_keeps
  · exact whenDone_keeps (i := .shuttleTx s.txPtr s.txLen) trivial (goW_keeps .il2)
  · exact whenDone_keeps (i := .checkGuard .tx .ckWe) trivial (goW_keeps .il3)
  · exact (setState_keeps rfl s).trans ((csDeassert_keeps _).trans (goW_keeps .fin _))
  · split
    · exact goW_keeps .rest s
    · exact Keeps.refl s

theorem iStep_keeps (s : State) : Ensures (Keeps s) (iStep s) := by
  unfold iStep
  split
  · exact Keeps.refl s
  · exact exec_keeps (decodeIrq_headerFits _) s
  · exact whenDone_keeps (i := .checkGuard .rx .ckRb) trivial (goI_keeps .rd2)
  · exact (setState_keeps rfl s).trans ((csAssert_keeps _).trans (goI_keeps .rd3 _))
  · exact whenDone_keeps (i := .shuttleRx 0 10 0) trivial (goI_keeps .rd4)
  · exact (setState_keeps rfl s).trans (goI_keeps .rd5 _)
  · exact andThen_keeps (i := .decodeHdr) trivial (goI_keeps .rd6)
  · exact whenDone_keeps (i := .shuttleRx 10 s.rxN 10) trivial (goI_keeps .rd7)
  · exact whenDone_keeps (i := .checkGuard .rx .ckRe) trivial (goI_keeps .rd8)
  · exact (csDeassert_keeps s).trans ((setState_keeps rfl _).trans (goI_keeps .rd9 _))
  · exact whenDone_keeps (i := .deliver 10 s.rxLen) trivial (goI_keeps .rest)
  · exact whenDone_keeps (i := .shuttleTx s.txPtr s.txLen) trivial (goI_keeps .wr2)
  · exact whenDone_keeps (i := .checkGuard .tx .ckWe) trivial (goI_keeps .wr3)
  · exact (setState_keeps rfl s).trans ((csDeassert_keeps _).trans (goI_keeps .rest _))

theorem issueUop_continues (i : Instr) (s : State) : Ensures (Continues s) (issueUop i s) := by
  unfold issueUop
  split
  · trivial
  · refine (exec_continues i { s with uop := none }).andThen fun t ht => ?_
    split
    · exact { ht with }
    · exact { ht with }

theorem issueOp_continues (i : Instr) (s : State) : Ensures (Continues s) (issueOp i s) := by
  unfold issueOp
  split
  · exact exec_continues i s
  · exact issueUop_continues i s

theorem seqStep_continues (s : State) : Ensures (Continues s) (seqStep s) :=
  seqStep_ensures (fun i _ => issueUop_continues i s) (fun _ => (iStep_keeps s).imp fun _ => Keeps.toContinues)
    (fun _ => {}) (fun _ _ _ => (wStep_keeps s).imp fun _ => Keeps.toContinues) (exec_continues _ s)

theorem hwReset_continues (s : State) : Continues s (hwReset s) := { live := fun hd => nomatch hd }

/-- An action of the environment other than a reset keeps too. -/
theorem applyAction_keeps {a : Action} (ha : a ≠ .reset) (s : State) : Ensures (Keeps s) (applyAction a s) := by
  cases a with
  | reset => exact absurd rfl ha
  | host sp i bs => exact (hostStore_dataMove sp i bs s).imp fun _ => DataMove.toKeeps
  | line v => exact clockEdges_keeps v _ s
  | clk pin => exact clockEdge_keeps _ s
  | timerAck => show Keeps s (if s.dReq then _ else s); split <;> exact {}
  | ack => show Keeps s (if s.sValid then _ else s); split <;> exact {}
  | present _ _ | reply _ | engine _ | timer _ | sink _ | issue _ | pass => exact {}

theorem applyAction_continues (a : Action) (s : State) : Ensures (Continues s) (applyAction a s) := by
  by_cases ha : a = .reset
  · rw [ha]; exact hwReset_continues s
  · exact (applyAction_keeps ha s).imp fun _ => Keeps.toContinues

theorem dropItem_continues (s : State) : Continues s (dropItem s) := {}

theorem step_continues (s : State) : Ensures (Continues s) (step s) := by
  have hdrop : ∀ {r : Result}, Ensures (Continues (dropItem s)) r → Ensures (Continues s) r := fun hr =>
    hr.imp fun _ hu => (dropItem_continues s).trans hu
  exact step_ensures (seqStep_continues s) (fun _ _ _ => hdrop (seqStep_continues _))
    (fun _ _ _ _ i _ _ _ => hdrop (issueOp_continues i _)) fun item _ _ => hdrop (applyAction_continues item.act _)

/-- Settles O58: every step continues its state. -/
theorem parametersAndTraceKept : Obligations.ParametersAndTraceKept := by
  intro s t hstep
  have hcont : Continues s t := (step_continues s).of_next hstep
  obtain ⟨news, hnews⟩ := hcont.trace
  exact ⟨hcont.cfg, news, hnews.symm⟩

end Sys2Proof.Machine
end

section
/-! The invariant of 10_state.md R42 to R44, taken apart by who can break it, and kept by every step. -/

namespace Sys2Proof.Machine

/-! ## The parts of the invariant -/

/-- The part that every operation keeps: parameters, ports, buffers, length of the synchroniser. -/
structure Standing (s : State) : Prop where
  cfg : s.cfg.wf = true
  ports : s.portsOnly = true
  buffers : buffersOk s
  chain : s.irqChain.length = s.cfg.syncStages - 2

/-- The part that the positions of W and I decide. -/
structure Control (s : State) : Prop where
  phase : phaseOk s = true
  cs : s.cs = csExpected s
  critical : sectionOk s = true
  requests : requestsOk s = true

theorem inv_iff {s : State} : Inv s ↔ Standing s ∧ Control s := by
  constructor
  · rintro ⟨hcfg, hports, hphase, hcs, hsection, hreq, htx, hrx, hchain⟩
    exact ⟨⟨hcfg, hports, buffersOk_iff.mpr ⟨htx, hrx⟩, hchain⟩, ⟨hphase, hcs, hsection, hreq⟩⟩
  · rintro ⟨⟨hcfg, hports, hbuf, hchain⟩, ⟨hphase, hcs, hsection, hreq⟩⟩
    exact ⟨hcfg, hports, hphase, hcs, hsection, hreq, hbuf .tx, hbuf .rx, hchain⟩

theorem Standing.keeps {s t : State} (h : Standing s) (hk : Keeps s t) : Standing t where
  cfg := by rw [hk.cfg]; exact h.cfg
  ports := by have := h.ports; unfold State.portsOnly at this ⊢; rwa [hk.cfg, hk.uop, hk.script]
  buffers := hk.bounded h.cfg h.buffers
  chain := by rw [hk.chain, hk.cfg]; exact h.chain

theorem portsOnly_iff {s : State} :
    s.portsOnly = true ↔ s.uop = none ∧ ∀ item ∈ s.env.script, item.act.throughPorts s.cfg = true := by
  simp [State.portsOnly]

theorem Standing.uop {s : State} (h : Standing s) : s.uop = none := (portsOnly_iff.mp h.ports).1

theorem Standing.dropItem {s : State} (h : Standing s) : Standing (dropItem s) where
  cfg := h.cfg
  ports := portsOnly_iff.mpr ⟨h.uop, fun item hmem => (portsOnly_iff.mp h.ports).2 item (List.mem_of_mem_tail hmem)⟩
  buffers := h.buffers
  chain := h.chain

theorem buffersOk_empty {s : State} (htx : s.tx = []) (hrx : s.rx = []) : buffersOk s :=
  buffersOk_iff.mpr ⟨by rw [htx]; rfl, by rw [hrx]; rfl⟩

theorem Standing.hwReset {s : State} (h : Standing s) : Standing (hwReset s) where
  cfg := h.cfg
  ports := portsOnly_iff.mpr ⟨rfl, (portsOnly_iff.mp h.ports).2⟩
  buffers := buffersOk_empty rfl rfl
  chain := List.length_replicate

/-! ## The chip-select rule and the critical section by the label of W -/

/-- The labels of the warm-up after its chip-select assertion. -/
def warmUp : WLabel → Bool
  | .wu2 | .wu3 | .wu4 | .wu5 | .wu6 | .wu7 => true
  | _ => false

/-- The chip-select that 10_state.md R43 asks for at a label of W and a value of `state`. -/
def csAt (l : WLabel) (st : TransportState) : Bool :=
  decide (st = .readIrq) || decide (st = .readEot) || (decide (st = .writeIrq) && decide (l ≠ .cr3)) ||
  warmUp l

/-- The labels of the exclusive sequence (20_memory.md R81). -/
def exclusive : WLabel → Bool
  | .cr2 | .cr3 | .cr4 => true
  | _ => false

/-- Outside the exclusive sequence its condition asks nothing. -/
theorem nonexclusive {l : WLabel} {P : Prop} (h : exclusive l = false) (he : exclusive l = true) : P :=
  absurd (h.symm.trans he) Bool.false_ne_true

theorem csExpected_eq (s : State) : csExpected s = csAt s.wpc s.state := by
  unfold csExpected csAt warmUp
  rfl

theorem sectionOk_iff {s : State} :
    sectionOk s = true ↔ (exclusive s.wpc = true → s.irqEn = false ∧ s.irqPend = false) := by
  unfold sectionOk
  split <;> simp_all [exclusive]

/-- W stands at a label, and I does not move: `state`, chip-select and the interrupt bits are as that label asks. -/
structure CallerAt (l : WLabel) (s : State) : Prop where
  wpc : s.wpc = l
  ipc : s.ipc = .rest
  phase : callerPhase l s.state = true
  cs : s.cs = csAt l s.state
  critical : exclusive l = true → s.irqEn = false ∧ s.irqPend = false

theorem Control.caller {s : State} {l : WLabel} (h : Control s) (hi : s.ipc = .rest) (hw : s.wpc = l) :
    CallerAt l s where
  wpc := hw
  ipc := hi
  phase := by have := h.phase; simp only [phaseOk, hi, hw] at this; exact this
  cs := by rw [h.cs, csExpected_eq, hw]
  critical := hw ▸ sectionOk_iff.mp h.critical

theorem CallerAt.control {s : State} {l : WLabel} (h : CallerAt l s) (hr : requestsOk s = true) : Control s where
  phase := by simp only [phaseOk, h.ipc, h.wpc]; exact h.phase
  cs := by rw [csExpected_eq, h.wpc]; exact h.cs
  critical := sectionOk_iff.mpr (by rw [h.wpc]; exact h.critical)
  requests := hr

/-- The value of `state` while I reads one frame, by its label (43_transport_read.md R214). -/
def readPhase : ILabel → Option TransportState
  | .rd1 | .rd2 | .rd9 => some .idle
  | .rd3 | .rd4 => some .readIrq
  | .rd5 | .rd6 | .rd7 | .rd8 => some .readEot
  | .rest | .take | .wr1 | .wr2 | .wr3 => none

/-- I reads one frame: W stands where a read can run, and chip-select is asserted while the frame is in flight. -/
structure ReadingAt (l : ILabel) (s : State) : Prop where
  ipc : s.ipc = l
  phase : readPhase l = some s.state
  readable : readableLabel s.wpc = true
  cs : s.cs = decide (s.state ≠ .idle)

theorem warmUp_readable {l : WLabel} (hl : readableLabel l = true) : warmUp l = false := by
  cases l <;> simp_all [warmUp, readableLabel]

theorem csAt_readable {l : WLabel} {st : TransportState} {i : ILabel} (hl : readableLabel l = true)
    (hst : readPhase i = some st) : csAt l st = decide (st ≠ .idle) := by
  unfold csAt
  rw [warmUp_readable hl]
  cases i <;> cases hst <;> rfl

theorem exclusive_readable {l : WLabel} (hl : readableLabel l = true) : exclusive l = false := by
  cases l <;> simp_all [exclusive, readableLabel]

theorem Control.reading {s : State} {l : ILabel} {st : TransportState} (h : Control s) (hi : s.ipc = l)
    (hl : readPhase l = some st) : ReadingAt l s := by
  have hphase : s.state = st ∧ readableLabel s.wpc = true := by
    have := h.phase
    unfold phaseOk at this
    cases l <;> cases hl <;> simpa [hi] using this
  refine ⟨hi, hl.trans (congrArg some hphase.1.symm), hphase.2, ?_⟩
  rw [h.cs, csExpected_eq]
  exact csAt_readable hphase.2 (hphase.1 ▸ hl)

theorem ReadingAt.control {s : State} {l : ILabel} (h : ReadingAt l s) (hr : requestsOk s = true) : Control s where
  phase := by
    obtain ⟨hi, hphase, hread, _⟩ := h
    unfold phaseOk
    cases l <;> simp_all [readPhase]
  cs := by rw [h.cs, csExpected_eq, csAt_readable h.readable h.phase]
  critical := sectionOk_iff.mpr (nonexclusive (exclusive_readable h.readable))
  requests := hr

/-- I completes an armed write: W waits at W_FIN with the frame's chip-select asserted. -/
structure CompletingAt (l : ILabel) (s : State) : Prop where
  ipc : s.ipc = l
  state : s.state = .writeIrq
  wpc : s.wpc = .fin
  cs : s.cs = true

/-- The labels that complete an armed write (43_transport_read.md R207 to R209). -/
def completes : ILabel → Bool
  | .wr1 | .wr2 | .wr3 => true
  | _ => false

theorem Control.completing {s : State} {l : ILabel} (h : Control s) (hi : s.ipc = l) (hl : completes l = true) :
    CompletingAt l s := by
  have hphase : s.state = .writeIrq ∧ s.wpc = .fin := by
    have := h.phase
    unfold phaseOk at this
    cases l <;> cases hl <;> simpa [hi] using this
  refine ⟨hi, hphase.1, hphase.2, ?_⟩
  rw [h.cs, csExpected_eq, hphase.1, hphase.2]
  rfl

theorem CompletingAt.control {s : State} {l : ILabel} (h : CompletingAt l s) (hl : completes l = true)
    (hr : requestsOk s = true) : Control s where
  phase := by
    obtain ⟨hi, hst, hw, _⟩ := h
    unfold phaseOk
    cases l <;> simp_all [completes]
  cs := by rw [h.cs, csExpected_eq, h.state, h.wpc]; rfl
  critical := sectionOk_iff.mpr (nonexclusive (by rw [h.wpc]; rfl))
  requests := hr

/-- What moves no control register keeps all but the requests. -/
theorem Control.dataMove {s t : State} (h : Control s) (hm : DataMove s t) (hr : requestsOk t = true) :
    Control t where
  phase := by have := h.phase; unfold phaseOk at this ⊢; rwa [hm.ipc, hm.wpc, hm.state]
  cs := by rw [hm.cs, h.cs, csExpected_eq, csExpected_eq, hm.wpc, hm.state]
  critical := by
    have := sectionOk_iff.mp h.critical
    rw [← hm.wpc, ← hm.irqEn, ← hm.irqPend] at this
    exact sectionOk_iff.mpr this
  requests := hr

/-! ## Requests and open shuttles (40_bus_driver.md R120) -/

/-- Where a transmit shuttle can be open; W's also while I takes an edge. -/
def txSite : ILabel → WLabel → Bool
  | .wr1, _ => true
  | .rest, l | .take, l => decide (l = .wu3) || decide (l = .wu5) || decide (l = .il1)
  | _, _ => false

/-- Where a receive shuttle can be open. -/
def rxSite : ILabel → Bool
  | .rd3 | .rd6 => true
  | _ => false

/-- Where a delay can stand. -/
def delaySite : ILabel → WLabel → Bool
  | .rest, l | .take, l => decide (l = .wu2) || decide (l = .wu4)
  | _, _ => false

/-- Where any request can stand. -/
def requestSite (i : ILabel) (l : WLabel) : Bool := txSite i l || rxSite i || delaySite i l || decide (i = .rd9)

theorem not_or_iff_imp (a b : Bool) : (!a || b) = true ↔ (a = true → b = true) := by cases a <;> simp

theorem requestsOk_iff {s : State} : requestsOk s = true ↔
    (s.xReq = true → s.txOpen = true ∨ s.rxOpen = true) ∧
    (s.txOpen = true → s.txRem ≠ 0) ∧ (s.rxOpen = true → s.rxRem ≠ 0) ∧
    (s.txOpen = true → txSite s.ipc s.wpc = true) ∧ (s.rxOpen = true → rxSite s.ipc = true) ∧
    (s.dReq = true → delaySite s.ipc s.wpc = true) ∧ (s.sValid = true → s.ipc = .rd9) := by
  have htx : (!s.txOpen || decide (s.ipc = .wr1) || ((decide (s.ipc = .rest) || decide (s.ipc = .take)) &&
      (decide (s.wpc = .wu3) || decide (s.wpc = .wu5) || decide (s.wpc = .il1)))) =
      (!s.txOpen || txSite s.ipc s.wpc) := by cases s.ipc <;> simp [txSite]
  have hrx : (!s.rxOpen || decide (s.ipc = .rd3) || decide (s.ipc = .rd6)) = (!s.rxOpen || rxSite s.ipc) := by
    cases s.ipc <;> simp [rxSite]
  have hd : ((decide (s.ipc = .rest) || decide (s.ipc = .take)) &&
      (decide (s.wpc = .wu2) || decide (s.wpc = .wu4))) = delaySite s.ipc s.wpc := by
    cases s.ipc <;> simp [delaySite]
  unfold requestsOk
  rw [htx, hrx, hd]
  simp only [Bool.or_assoc, Bool.and_eq_true, not_or_iff_imp]
  simp only [Bool.or_eq_true, decide_eq_true_eq, and_assoc]

theorem requestsOk_of_low {s : State} (h : requestsLow s) : requestsOk s = true := by
  obtain ⟨hx, hd, hv, ht, hr⟩ := h
  simp [requestsOk_iff, hx, hd, hv, ht, hr]

/-- Where no shuttle can be open none is, and no exchange stands. -/
theorem noShuttle_of_site {s : State} (h : requestsOk s = true) (htx : txSite s.ipc s.wpc = false)
    (hrx : rxSite s.ipc = false) : s.xReq = false ∧ s.txOpen = false ∧ s.rxOpen = false := by
  obtain ⟨hx, _, _, ht, hr, _, _⟩ := requestsOk_iff.mp h
  have hnoTx : s.txOpen = false := by simpa [htx] using ht
  have hnoRx : s.rxOpen = false := by simpa [hrx] using hr
  exact ⟨by simpa [hnoTx, hnoRx] using hx, hnoTx, hnoRx⟩

theorem requestsLow_of_site {s : State} (h : requestsOk s = true) (hs : requestSite s.ipc s.wpc = false) :
    requestsLow s := by
  simp only [requestSite, Bool.or_eq_false_iff, decide_eq_false_iff_not] at hs
  obtain ⟨⟨⟨htx, hrx⟩, hdelay⟩, hrd9⟩ := hs
  obtain ⟨hx, ht, hr⟩ := noShuttle_of_site h htx hrx
  obtain ⟨_, _, _, _, _, hd, hv⟩ := requestsOk_iff.mp h
  exact ⟨hx, by simpa [hdelay] using hd, by simpa [hrd9] using hv, ht, hr⟩

/-! The four kinds of site exclude each other. -/

theorem txSite_only {i : ILabel} {l : WLabel} (h : txSite i l = true) :
    rxSite i = false ∧ delaySite i l = false ∧ i ≠ .rd9 := by
  cases i with
  | rest | take =>
    have hl : (l = .wu3 ∨ l = .wu5) ∨ l = .il1 := by simpa [txSite] using h
    rcases hl with (rfl | rfl) | rfl <;> exact ⟨rfl, rfl, nofun⟩
  | wr1 => exact ⟨rfl, rfl, nofun⟩
  | _ => cases h

theorem delaySite_only {i : ILabel} {l : WLabel} (h : delaySite i l = true) :
    txSite i l = false ∧ rxSite i = false ∧ i ≠ .rd9 := by
  cases i with
  | rest | take =>
    have hl : l = .wu2 ∨ l = .wu4 := by simpa [delaySite] using h
    rcases hl with rfl | rfl <;> exact ⟨rfl, rfl, nofun⟩
  | _ => cases h

theorem rxSite_only {i : ILabel} (h : rxSite i = true) (l : WLabel) :
    txSite i l = false ∧ delaySite i l = false ∧ i ≠ .rd9 := by
  cases i with
  | rd3 | rd6 => exact ⟨rfl, rfl, nofun⟩
  | _ => cases h

/-- Only a transmit shuttle, or nothing, is open. -/
structure OnlyTx (s : State) : Prop where
  rxOpen : s.rxOpen = false
  dReq : s.dReq = false
  sValid : s.sValid = false
  xReq : s.xReq = true → s.txOpen = true
  txRem : s.txOpen = true → s.txRem ≠ 0

/-- Only a receive shuttle, or nothing, is open. -/
structure OnlyRx (s : State) : Prop where
  txOpen : s.txOpen = false
  dReq : s.dReq = false
  sValid : s.sValid = false
  xReq : s.xReq = true → s.rxOpen = true
  rxRem : s.rxOpen = true → s.rxRem ≠ 0

theorem onlyTx_iff {s : State} (hs : txSite s.ipc s.wpc = true) : requestsOk s = true ↔ OnlyTx s := by
  obtain ⟨hrx, hdelay, hrd9⟩ := txSite_only hs
  rw [requestsOk_iff]
  constructor
  · rintro ⟨hx, ht, _, _, hr, hd, hv⟩
    constructor <;> simp_all
  · rintro ⟨hr, hd, hv, hx, ht⟩
    simp_all

theorem onlyRx_iff {s : State} (hs : rxSite s.ipc = true) : requestsOk s = true ↔ OnlyRx s := by
  obtain ⟨htx, hdelay, hrd9⟩ := rxSite_only hs s.wpc
  rw [requestsOk_iff]
  constructor
  · rintro ⟨hx, _, hr, ht, _, hd, hv⟩
    constructor <;> simp_all
  · rintro ⟨ht, hd, hv, hx, hr⟩
    simp_all

theorem OnlyTx.low {s : State} (h : OnlyTx s) (ho : s.txOpen = false) : requestsLow s := by
  obtain ⟨hr, hd, hv, hx, _⟩ := h
  simp_all [requestsLow]

theorem OnlyRx.low {s : State} (h : OnlyRx s) (ho : s.rxOpen = false) : requestsLow s := by
  obtain ⟨ht, hd, hv, hx, _⟩ := h
  simp_all [requestsLow]

theorem shuttleTx_onlyTx (base : Nat) (n : Count) {s : State} (h : OnlyTx s) : OnlyTx (shuttleTx base n s) := by
  have hload : (loadTx n s).txOpen = true ∧ (loadTx n s).rxOpen = false ∧ (loadTx n s).dReq = false ∧
      (loadTx n s).sValid = false := by
    obtain ⟨hr, hd, hv, _, _⟩ := h
    unfold loadTx
    split <;> simp_all
  obtain ⟨hopen, hrx, hd, hv⟩ := hload
  rcases shuttleTx_cases base n s with ⟨hrem, ht⟩ | ⟨hrem, _, ht⟩ | ⟨r, rest, hrem, _, ht⟩ <;> rw [ht]
  · have hclosed : s.txOpen = false := by
      cases ho : s.txOpen with
      | false => rfl
      | true => rw [loadTx_open ho] at hrem; exact absurd hrem (h.txRem ho)
    rw [loadTx_closed hclosed]
    exact ⟨h.rxOpen, h.dReq, h.sValid, fun hx => absurd (h.xReq hx) (by simp [hclosed]), nofun⟩
  · rw [raiseFromTx_eq]
    exact ⟨hrx, hd, hv, fun _ => hopen, fun _ => hrem⟩
  · rw [raiseFromTx_eq]
    exact ⟨hrx, hd, hv, nofun, fun ho => bne_iff_ne.mp ho⟩

theorem xchg_requests (b : Byte) (s : State) : (xchg b s).txOpen = s.txOpen ∧ (xchg b s).dReq = s.dReq ∧
    (xchg b s).sValid = s.sValid ∧ (xchg b s).rxOpen = s.rxOpen ∧ (xchg b s).rxRem = s.rxRem ∧
    (s.env.answer? ≠ none → (xchg b s).xReq = false) := by
  rcases xchg_cases b s with ⟨ha, hx⟩ | ⟨r, rest, _, hx⟩ <;> rw [hx]
  · exact ⟨rfl, rfl, rfl, rfl, rfl, fun hne => absurd ha hne⟩
  · exact ⟨rfl, rfl, rfl, rfl, rfl, fun _ => rfl⟩

theorem shuttleRx_onlyRx (base : Nat) (n k0 : Count) {s : State} (h : OnlyRx s) :
    Ensures OnlyRx (shuttleRx base n k0 s) := by
  have hload : (loadRx n s).rxOpen = true ∧ (loadRx n s).txOpen = false ∧ (loadRx n s).dReq = false ∧
      (loadRx n s).sValid = false ∧ (loadRx n s).env = s.env := by
    obtain ⟨ht, hd, hv, _, _⟩ := h
    unfold loadRx
    split <;> simp_all
  obtain ⟨hopen, htx, hd, hv, henv⟩ := hload
  obtain ⟨hxt, hxd, hxv, hxo, hxr, hxq⟩ :=
    xchg_requests (rdTxAt s.cfg (k0.toNat + cursor n (loadRx n s).rxRem)) (loadRx n s)
  rcases shuttleRx_cases base n k0 s with
    ⟨hrem, ht⟩ | ⟨hrem, _, ht⟩ | ⟨r, rest, hrem, hans, _, ht⟩ | ⟨_, _, _, ht⟩ <;> rw [ht]
  · have hclosed : s.rxOpen = false := by
      cases ho : s.rxOpen with
      | false => rfl
      | true => rw [loadRx_open ho] at hrem; exact absurd hrem (h.rxRem ho)
    rw [loadRx_closed hclosed]
    exact ⟨h.txOpen, h.dReq, h.sValid, fun hx => absurd (h.xReq hx) (by simp [hclosed]), nofun⟩
  · exact ⟨hxt.trans htx, hxd.trans hd, hxv.trans hv, fun _ => hxo.trans hopen, fun _ => by rw [hxr]; exact hrem⟩
  · have hfell := hxq (by rw [henv, hans]; exact Option.some_ne_none _)
    exact ⟨hxt.trans htx, hxd.trans hd, hxv.trans hv, fun hx => absurd (hfell.symm.trans hx) (by decide),
      fun ho => bne_iff_ne.mp ho⟩
  · trivial

/-! ## One attempt at a micro-operation -/

/-- An attempt of a sequencer leaves it at its label with the invariant kept, and where it is done nothing stands. -/
structure Attempt (done : State → Bool) (s u : State) : Prop where
  control : Control u
  move : DataMove s u
  low : done u = true → requestsLow u

/-- A micro-step of a sequencer keeps the invariant if the move to the next label does. -/
theorem attempt_control {done : State → Bool} {f : State → State} {s : State} {r : Result}
    (h : Ensures (Attempt done s) r) (hgo : ∀ u, Control u → DataMove s u → requestsLow u → Control (f u)) :
    Ensures Control (whenDone done f r) :=
  h.whenDone (fun u hu hd => hgo u hu.control hu.move (hu.low hd)) fun _ hu _ => hu.control

variable {s : State}

theorem checkGuard_attempt (sp : Space) (site : Site) (h : Control s) (hlow : requestsLow s) :
    Attempt guardPassed s (checkGuard sp site s) := by
  have hmove := checkGuard_dataMove sp site s
  have hkept : requestsLow (checkGuard sp site s) := by
    unfold checkGuard
    split <;> exact hlow
  exact ⟨h.dataMove hmove (requestsOk_of_low hkept), hmove, fun _ => hkept⟩

theorem shuttleTx_attempt (base : Nat) (n : Count) (h : Control s) (hs : txSite s.ipc s.wpc = true) :
    Attempt txDone s (shuttleTx base n s) := by
  have hmove := shuttleTx_dataMove base n s
  have honly := shuttleTx_onlyTx base n ((onlyTx_iff hs).mp h.requests)
  refine ⟨h.dataMove hmove ((onlyTx_iff ?_).mpr honly), hmove, fun hd => honly.low (by simpa [txDone] using hd)⟩
  rw [hmove.ipc, hmove.wpc]; exact hs

theorem shuttleRx_attempt (base : Nat) (n k0 : Count) (h : Control s) (hs : rxSite s.ipc = true) :
    Ensures (Attempt rxDone s) (shuttleRx base n k0 s) := by
  refine ensures_iff.mpr fun u hu => ?_
  have hmove := (shuttleRx_dataMove base n k0 s).of_next hu
  have honly := (shuttleRx_onlyRx base n k0 ((onlyRx_iff hs).mp h.requests)).of_next hu
  refine ⟨h.dataMove hmove ((onlyRx_iff ?_).mpr honly), hmove, fun hd => honly.low (by simpa [rxDone] using hd)⟩
  rw [hmove.ipc]; exact hs

theorem delayUs_attempt (n : Half) (h : Control s) (hs : delaySite s.ipc s.wpc = true) :
    Attempt delayDone s (delayUs n s) := by
  have hmove := delayUs_dataMove n s
  obtain ⟨htx, hrx, hrd9⟩ := delaySite_only hs
  obtain ⟨hnoX, hnoTx, hnoRx⟩ := noShuttle_of_site h.requests htx hrx
  obtain ⟨_, _, _, _, _, _, hv⟩ := requestsOk_iff.mp h.requests
  have hnoV : s.sValid = false := by simpa [hrd9] using hv
  rw [delayUs_cases] at hmove ⊢
  refine ⟨h.dataMove hmove (requestsOk_iff.mpr ?_), hmove, fun hd => ?_⟩
  · simp [hnoTx, hnoRx, hnoX, hnoV, hs]
  · exact ⟨hnoX, by simpa [delayDone] using hd, hnoV, hnoTx, hnoRx⟩

theorem deliver_attempt (ptr : Nat) (len : Half) (h : Control s) (hi : s.ipc = .rd9) :
    Attempt deliverDone s (deliver ptr len s) := by
  have hmove := deliver_dataMove ptr len s
  obtain ⟨hnoX, hnoTx, hnoRx⟩ := noShuttle_of_site h.requests (by rw [hi]; rfl) (by rw [hi]; rfl)
  obtain ⟨_, _, _, _, _, hd, _⟩ := requestsOk_iff.mp h.requests
  have hnoD : s.dReq = false := by simpa [hi, delaySite] using hd
  rw [deliver_cases] at hmove ⊢
  refine ⟨h.dataMove hmove (requestsOk_iff.mpr ?_), hmove, fun hd => ?_⟩
  · simp [hnoTx, hnoRx, hnoX, hnoD, hi]
  · exact ⟨hnoX, hnoD, by simpa [deliverDone] using hd, hnoTx, hnoRx⟩

/-! ## The caller path -/

/-- W goes to a label that asks what its label asked: no request stands, and the new label is not exclusive. -/
theorem Control.goW {l l' : WLabel} (h : Control s) (hi : s.ipc = .rest) (hw : s.wpc = l) (hlow : requestsLow s)
    (hphase : ∀ st, callerPhase l' st = callerPhase l st) (hcs : ∀ st, csAt l' st = csAt l st)
    (hexcl : exclusive l' = false) : Control (goW l' s) := by
  have hat := h.caller hi hw
  refine CallerAt.control (l := l') ⟨rfl, hi, ?_, ?_, nonexclusive hexcl⟩
    (requestsOk_of_low hlow)
  · exact (hphase s.state).trans hat.phase
  · exact hat.cs.trans (hcs s.state).symm

/-- A micro-step of W that only moves the label, where the new label asks what the old one asked. -/
theorem labelEdge_control {done : State → Bool} {r : Result} {l l' : WLabel} (h : Ensures (Attempt done s) r)
    (hi : s.ipc = .rest) (hw : s.wpc = l) (hphase : ∀ st, callerPhase l' st = callerPhase l st)
    (hcs : ∀ st, csAt l' st = csAt l st) (hexcl : exclusive l' = false) :
    Ensures Control (whenDone done (goW l') r) :=
  attempt_control h fun _ hu hm hlow => hu.goW (hm.ipc.trans hi) (hm.wpc.trans hw) hlow hphase hcs hexcl

theorem branchLabel_phase {st : TransportState} (h : quiet st = true) :
    callerPhase (branchLabel st) st = true ∧ csAt (branchLabel st) st = csAt .br st ∧
      exclusive (branchLabel st) = false := by
  cases st <;> simp_all [quiet, branchLabel, callerPhase, csAt, warmUp, exclusive]

theorem csAt_warmUp (st : TransportState) : csAt .wu2 st = true := Bool.or_true _

/-- Where the start of I does not go first, outside the inhibited labels nothing is pending. -/
theorem noPend_of_irqStart {s : State} (hi : s.ipc = .rest) (hh : s.halted = false) (hs : s.irqStart = false)
    (hw : inhibited s.wpc = false) : s.irqPend = false := by
  simpa [State.irqStart, hi, hh, hw] using hs

theorem buildHdr_attempt (len : Half) (h : Control s) (hlow : requestsLow s) :
    Ensures (Attempt (fun _ => true) s) (exec (.buildHdr len) s) :=
  have hmove : Ensures (DataMove s) (exec (.buildHdr len) s) := buildHdr_dataMove len s
  ⟨h.dataMove hmove (requestsOk_of_low hlow), hmove, fun _ => hlow⟩

theorem decodeHdr_attempt (h : Control s) (hlow : requestsLow s) :
    Ensures (Attempt (fun _ => true) s) (exec .decodeHdr s) := by
  simp only [exec, execDecodeHdr]
  split
  · exact ⟨h.dataMove (setDecoded_dataMove _ _ _ s) (requestsOk_of_low hlow), setDecoded_dataMove _ _ _ s,
      fun _ => hlow⟩
  · trivial

/-- Every micro-step of W keeps the control part of the invariant. -/
theorem wStep_control (h : Control s) (hi : s.ipc = .rest) (hh : s.halted = false) (hs : s.irqStart = false) :
    Ensures Control (wStep s) := by
  have hsite : ∀ {l}, s.wpc = l → requestSite .rest l = false → requestsLow s := fun hw hsite =>
    requestsLow_of_site h.requests (by rw [hi, hw]; exact hsite)
  cases hw : s.wpc with
  | rest => simp only [wStep, hw]; exact h
  | init => have hphase := (h.caller hi hw).phase; cases hphase
  | acc => have hphase := (h.caller hi hw).phase; cases hphase
  | ckb | wu6 | il2 =>
    simp only [wStep, hw]
    exact labelEdge_control (checkGuard_attempt _ _ h (hsite hw rfl)) hi hw (fun _ => rfl) (fun _ => rfl) rfl
  | wu2 | wu4 =>
    simp only [wStep, hw]
    exact labelEdge_control (delayUs_attempt _ h (by rw [hi, hw]; rfl)) hi hw (fun _ => rfl) (fun _ => rfl) rfl
  | wu3 | wu5 | il1 =>
    simp only [wStep, hw]
    exact labelEdge_control (shuttleTx_attempt _ _ h (by rw [hi, hw]; rfl)) hi hw (fun _ => rfl) (fun _ => rfl) rfl
  | hdr =>
    simp only [wStep, hw]
    exact (buildHdr_attempt s.wrL h (hsite hw rfl)).andThen fun u hu =>
      hu.control.goW (hu.move.ipc.trans hi) (hu.move.wpc.trans hw) (hu.low rfl) (fun _ => rfl) (fun _ => rfl) rfl
  | br =>
    simp only [wStep, hw]
    have hat := h.caller hi hw
    obtain ⟨hphase, hcs, hexcl⟩ := branchLabel_phase hat.phase
    exact CallerAt.control ⟨rfl, hi, hphase, hat.cs.trans hcs.symm, nonexclusive hexcl⟩
      (requestsOk_of_low (hsite hw rfl))
  | wu1 =>
    simp only [wStep, hw, execCsAssert, csAssert_eq]
    exact CallerAt.control ⟨rfl, hi, (h.caller hi hw).phase, (csAt_warmUp s.state).symm, nofun⟩
      (requestsOk_of_low (hsite hw rfl))
  | wu7 =>
    simp only [wStep, hw, execCsDeassert, csDeassert_eq]
    exact CallerAt.control (l := .fin) ⟨rfl, hi, rfl, rfl, nofun⟩ (requestsOk_of_low (hsite hw rfl))
  | spin =>
    simp only [wStep, hw]
    split
    · exact h.goW hi hw (hsite hw rfl) (fun _ => rfl) (fun _ => rfl) rfl
    · exact h
  | cr1 =>
    simp only [wStep, hw]
    have hpend : s.irqPend = false := noPend_of_irqStart hi hh hs (by rw [hw]; rfl)
    have hat := h.caller hi hw
    exact CallerAt.control (l := .cr2) ⟨rfl, hi, hat.phase, hat.cs, fun _ => ⟨rfl, hpend⟩⟩
      (requestsOk_of_low (hsite hw rfl))
  | cr2 =>
    simp only [wStep, hw]
    have hat := h.caller hi hw
    have hidle : s.state = .idle := of_decide_eq_true hat.phase
    have hcs : s.cs = false := by rw [hat.cs, hidle]; rfl
    exact CallerAt.control (l := .cr3) ⟨rfl, hi, rfl, hcs, fun _ => hat.critical rfl⟩
      (requestsOk_of_low (hsite hw rfl))
  | cr3 =>
    simp only [wStep, hw, execCsAssert, csAssert_eq]
    have hat := h.caller hi hw
    have hstate : s.state = .writeIrq := of_decide_eq_true hat.phase
    have hcs : true = csAt .cr4 s.state := by rw [hstate]; rfl
    exact CallerAt.control (l := .cr4) ⟨rfl, hi, hat.phase, hcs, fun _ => hat.critical rfl⟩
      (requestsOk_of_low (hsite hw rfl))
  | cr4 =>
    simp only [wStep, hw]
    have hat := h.caller hi hw
    have hstate : s.state = .writeIrq := of_decide_eq_true hat.phase
    have hcs : s.cs = true := by rw [hat.cs, hstate]; rfl
    have hlabel : ∀ v : Bool, callerPhase (if v then .il1 else .fin) .writeIrq = true ∧
        csAt (if v then .il1 else .fin) .writeIrq = true ∧ exclusive (if v then .il1 else .fin) = false := by decide
    obtain ⟨hphase, hcsAt, hexcl⟩ := hlabel s.irqS
    rw [← hstate] at hphase hcsAt
    exact CallerAt.control ⟨rfl, hi, hphase, hcs.trans hcsAt.symm, nonexclusive hexcl⟩
      (requestsOk_of_low (hsite hw rfl))
  | il3 =>
    simp only [wStep, hw, execCsDeassert, csDeassert_eq]
    exact CallerAt.control (l := .fin) ⟨rfl, hi, rfl, rfl, nofun⟩ (requestsOk_of_low (hsite hw rfl))
  | fin =>
    simp only [wStep, hw]
    split
    next hidle =>
      have hat := h.caller hi hw
      have hphase : callerPhase .rest s.state = true := by rw [hidle]; rfl
      have hcs : s.cs = csAt .rest s.state := by rw [hat.cs, hidle]; rfl
      exact CallerAt.control ⟨rfl, hi, hphase, hcs, nofun⟩ (requestsOk_of_low (hsite hw rfl))
    next => exact h

/-! ## The interrupt path -/

/-- The arm of I_TAKE that a value of `state` selects (43_transport_read.md R191). -/
def irqArm : TransportState → Instr
  | .powerUp => .onIrqPowerup
  | .idle => .onIrqIdle
  | .writeIrq => .onIrqWriteirq
  | st => .onIrqOther (stateCode st)

theorem iStep_take (hi : s.ipc = .take) : iStep s = exec (irqArm s.state) s := by
  have harm : decodeIrq s.stateBits = irqArm s.state := by
    unfold State.stateBits
    cases s.state <;> rfl
  simp only [iStep, hi, harm]

theorem requestsOk_enter (h : requestsOk s = true) (hi : s.ipc = .rest) : requestsOk (irqEnter s) = true := by
  rw [requestsOk_iff] at h ⊢
  simpa [irqEnter, hi, txSite, rxSite, delaySite] using h

theorem requestsOk_return (h : requestsOk s = true) (hi : s.ipc = .take) : requestsOk (irqReturn s) = true := by
  rw [requestsOk_iff] at h ⊢
  simpa [irqReturn, hi, txSite, rxSite, delaySite] using h

theorem exclusive_inhibited {l : WLabel} (h : inhibited l = false) : exclusive l = false := by
  cases l <;> simp_all [exclusive, inhibited]

/-- Where I takes an edge in a value of `state`, the label of W fits what the arm leaves (R214). -/
theorem callerPhase_taken {l : WLabel} (hl : inhibited l = false) :
    (callerPhase l .powerUp = true → callerPhase l .initialized = true) ∧
    (callerPhase l .idle = true → readableLabel l = true) ∧ (callerPhase l .writeIrq = true → l = .fin) := by
  cases l <;> simp_all [callerPhase, quiet, readableLabel, inhibited]

theorem callerPhase_readable {l : WLabel} (hl : readableLabel l = true) : callerPhase l .idle = true := by
  cases l <;> simp_all [callerPhase, quiet, readableLabel]

theorem requestSite_readable {l : WLabel} (hl : readableLabel l = true) : requestSite .take l = false := by
  cases l <;> simp_all [requestSite, txSite, rxSite, delaySite, readableLabel]

/-- I takes the edge: each arm leaves W and `state` where its label asks. -/
theorem take_control (h : Control s) (hi : s.ipc = .take) : Ensures Control (exec (irqArm s.state) s) := by
  have hphase : callerPhase s.wpc s.state = true ∧ inhibited s.wpc = false := by
    have := h.phase
    simpa [phaseOk, hi] using this
  have hcs : s.cs = csAt s.wpc s.state := by rw [h.cs, csExpected_eq]
  have hexcl := exclusive_inhibited hphase.2
  have hreturn : requestsOk (irqReturn s) = true := requestsOk_return h.requests hi
  obtain ⟨hboot, hread, hfin⟩ := callerPhase_taken hphase.2
  have hlow : requestSite .take s.wpc = false → requestsLow s := fun hsite =>
    requestsLow_of_site h.requests (by rw [hi]; exact hsite)
  have hother : Control (irqReturn (takeEdge s)) :=
    CallerAt.control ⟨rfl, rfl, hphase.1, hcs, nonexclusive hexcl⟩ hreturn
  cases hst : s.state with
  | powerUp =>
    rw [hst] at hphase hcs
    exact CallerAt.control (l := s.wpc) ⟨rfl, rfl, hboot hphase.1, hcs, nonexclusive hexcl⟩
      hreturn
  | idle =>
    rw [hst] at hphase
    have hreadable := hread hphase.1
    refine ReadingAt.control (l := .rd1) ⟨rfl, congrArg some hst.symm, hreadable, ?_⟩
      (requestsOk_of_low (hlow (requestSite_readable hreadable)))
    exact hcs.trans (csAt_readable (i := .rd1) hreadable (congrArg some hst.symm))
  | writeIrq =>
    rw [hst] at hphase hcs
    have hw := hfin hphase.1
    rw [hw] at hcs hlow
    exact CompletingAt.control (l := .wr1) ⟨rfl, hst, hw, hcs⟩ rfl (requestsOk_of_low (hlow rfl))
  | _ => exact hother

/-- A micro-step of I that only moves the label inside the reading of a frame. -/
theorem readEdge_control {done : State → Bool} {r : Result} {l l' : ILabel} {st : TransportState}
    (h : Ensures (Attempt done s) r) (hi : s.ipc = l) (hl : readPhase l = some st) (hl' : readPhase l' = some st) :
    Ensures Control (whenDone done (goI l') r) :=
  attempt_control h fun u hu hm hlow =>
    have hat : ReadingAt l u := hu.reading (hm.ipc.trans hi) hl
    ReadingAt.control ⟨rfl, (hl'.trans hl.symm).trans hat.phase, hat.readable, hat.cs⟩ (requestsOk_of_low hlow)

/-- A micro-step of I that only moves the label inside the completion of a write. -/
theorem completeEdge_control {done : State → Bool} {r : Result} {l l' : ILabel} (h : Ensures (Attempt done s) r)
    (hi : s.ipc = l) (hl : completes l = true) (hl' : completes l' = true) :
    Ensures Control (whenDone done (goI l') r) :=
  attempt_control h fun u hu hm hlow =>
    have hat : CompletingAt l u := hu.completing (hm.ipc.trans hi) hl
    CompletingAt.control ⟨rfl, hat.state, hat.wpc, hat.cs⟩ hl' (requestsOk_of_low hlow)

/-- I returns from a delivered frame: W stands where it stood, with `state` Idle. -/
theorem ReadingAt.irqReturn (h : ReadingAt .rd9 s) (hlow : requestsLow s) : Control (irqReturn s) := by
  have hidle : s.state = .idle := (Option.some.inj h.phase).symm
  have hphase : callerPhase s.wpc s.state = true := hidle ▸ callerPhase_readable h.readable
  have hcs : s.cs = csAt s.wpc s.state := h.cs.trans (csAt_readable h.readable h.phase).symm
  exact CallerAt.control ⟨rfl, rfl, hphase, hcs,
    nonexclusive (exclusive_readable h.readable)⟩ (requestsOk_of_low hlow)

/-- Every micro-step of I keeps the control part of the invariant. -/
theorem iStep_control (h : Control s) : Ensures Control (iStep s) := by
  have hsite : ∀ {l}, s.ipc = l → requestSite l s.wpc = false → requestsLow s := fun hi hsite =>
    requestsLow_of_site h.requests (by rw [hi]; exact hsite)
  cases hi : s.ipc with
  | rest => simp only [iStep, hi]; exact h
  | take => rw [iStep_take hi]; exact take_control h hi
  | rd1 | rd7 =>
    simp only [iStep, hi]
    exact readEdge_control (checkGuard_attempt _ _ h (hsite hi rfl)) hi rfl rfl
  | rd2 =>
    simp only [iStep, hi, execCsAssert, csAssert_eq]
    exact ReadingAt.control (l := .rd3) ⟨rfl, rfl, (h.reading hi rfl).readable, rfl⟩
      (requestsOk_of_low (hsite hi rfl))
  | rd3 | rd6 =>
    simp only [iStep, hi]
    exact readEdge_control (shuttleRx_attempt _ _ _ h (by rw [hi]; rfl)) hi rfl rfl
  | rd4 =>
    simp only [iStep, hi]
    have hat := h.reading hi rfl
    have hstate : s.state = .readIrq := (Option.some.inj hat.phase).symm
    have hcs : s.cs = true := by rw [hat.cs, hstate]; rfl
    exact ReadingAt.control (l := .rd5) ⟨rfl, rfl, hat.readable, hcs⟩ (requestsOk_of_low (hsite hi rfl))
  | rd5 =>
    simp only [iStep, hi]
    exact (decodeHdr_attempt h (hsite hi rfl)).andThen fun u hu =>
      have hat : ReadingAt .rd5 u := hu.control.reading (hu.move.ipc.trans hi) rfl
      ReadingAt.control (l := .rd6) ⟨rfl, hat.phase, hat.readable, hat.cs⟩ (requestsOk_of_low (hu.low rfl))
  | rd8 =>
    simp only [iStep, hi, execCsDeassert, csDeassert_eq]
    exact ReadingAt.control (l := .rd9) ⟨rfl, rfl, (h.reading hi rfl).readable, rfl⟩
      (requestsOk_of_low (hsite hi rfl))
  | rd9 =>
    simp only [iStep, hi]
    exact attempt_control (deliver_attempt _ _ h hi) fun u hu hm hlow =>
      (hu.reading (hm.ipc.trans hi) rfl).irqReturn hlow
  | wr1 =>
    simp only [iStep, hi]
    exact completeEdge_control (shuttleTx_attempt _ _ h (by rw [hi]; rfl)) hi rfl rfl
  | wr2 =>
    simp only [iStep, hi]
    exact completeEdge_control (checkGuard_attempt _ _ h (hsite hi rfl)) hi rfl rfl
  | wr3 =>
    simp only [iStep, hi, execCsDeassert, csDeassert_eq]
    exact CallerAt.control (l := .fin) ⟨(h.completing hi rfl).wpc, rfl, rfl, rfl, nofun⟩
      (requestsOk_of_low (hsite hi rfl))

/-- The start of I leaves W where it stands (60_exceptions.md R230). -/
theorem irqEnter_control (h : Control s) (hs : s.irqStart = true) : Control (irqEnter s) := by
  simp only [State.irqStart, Bool.and_eq_true, decide_eq_true_eq, Bool.not_eq_true'] at hs
  obtain ⟨⟨⟨_, hi⟩, _⟩, hw⟩ := hs
  have hat := h.caller hi rfl
  have hphase : phaseOk (irqEnter s) = true := by simp [phaseOk, irqEnter, hat.phase, hw]
  exact ⟨hphase, h.cs, h.critical, requestsOk_enter h.requests hi⟩

/-! ## The environment -/

theorem csAt_quiet {st : TransportState} (h : quiet st = true) : csAt .rest st = false := by
  cases st <;> simp_all [quiet, csAt, warmUp]

/-- A command on the port keeps the invariant if its effect does where `cmd_ready = 1`. -/
theorem hostCommand_control {cmd : BitVec 2} {len : Half} {effect : State → State} (h : Control s)
    (he : CallerAt .rest s → requestsLow s → Control (effect (withdraw s))) :
    Control (hostCommand cmd len effect s) := by
  cases hr : s.cmdReady with
  | true =>
    rw [hostCommand_ready hr]
    obtain ⟨hw, hi, _, _⟩ := (cmdReady_iff s).mp hr
    exact he (h.caller hi hw) (requestsLow_of_site h.requests (by rw [hi, hw]; rfl))
  | false => rw [hostCommand_held hr]; exact h.dataMove (present_dataMove cmd len s) h.requests

theorem acceptWrite_control (len : Half) (hat : CallerAt .rest s) (hlow : requestsLow s) :
    Control (acceptWrite len (withdraw s)) :=
  CallerAt.control (l := .ckb) ⟨rfl, hat.ipc, hat.phase, hat.cs, nofun⟩ (requestsOk_of_low hlow)

/-- W_INIT stores both guards and moves `state`, `irq_en` and the label of W (42_transport_write.md R161). -/
theorem initStep_eq (s : State) : initStep s =
    { s with rx := s.rx.write s.cfg.rxCap s.cfg.sentinel, tx := s.tx.write s.cfg.txCap s.cfg.sentinel,
             state := .powerUp, irqEn := true, wpc := .rest, trace := .enUp :: .st .powerUp :: s.trace } := rfl

theorem initStep_control (hat : CallerAt .rest s) (hlow : requestsLow s) : Control (initStep (withdraw s)) := by
  rw [initStep_eq]
  exact CallerAt.control (l := .rest) ⟨rfl, hat.ipc, rfl, hat.cs.trans (csAt_quiet hat.phase), nofun⟩
    (requestsOk_of_low hlow)

/-- Clock edges set no pending bit in the exclusive sequence, where the signal is off (41_irq_sync.md R144). -/
theorem clockEdges_control (level : Bool) (n : Nat) (h : Control s) : Control (clockEdges level n s) := by
  have hpend : exclusive s.wpc = true → s.irqEn = false ∧ (clockEdges level n s).irqPend = false := fun he => by
    obtain ⟨hoff, hnone⟩ := sectionOk_iff.mp h.critical he
    exact ⟨hoff, (clockEdges_disabled hoff).trans hnone⟩
  rw [clockEdges_frame]
  exact ⟨h.phase, h.cs, sectionOk_iff.mpr hpend, h.requests⟩

theorem lineEdge_control (h : Control s) : Control (lineTo true (lineTo false s)) :=
  clockEdges_control true _ (clockEdges_control false _ h)

theorem hostStore_control (sp : Space) (i : Nat) (bs : List Byte) (h : Control s) :
    Ensures Control (hostStore sp i bs s) := by
  have hmove := hostStore_dataMove sp i bs s
  rcases hostStore_cases sp i bs s with ⟨_, hs⟩ | ⟨_, hs⟩ <;> rw [hs] at hmove ⊢
  · refine h.dataMove hmove ?_
    cases s.halted <;> cases sp <;> exact h.requests
  · trivial

/-- The operations that the environment issues keep the control part of the invariant. -/
theorem exec_environmental_control {i : Instr} (hi : environmental i = true) (h : Control s) :
    Ensures Control (exec i s) := by
  cases i with
  | nocmd => exact h.dataMove (withdraw_dataMove s) h.requests
  | init => exact hostCommand_control h initStep_control
  | submitWrite len => exact hostCommand_control h (acceptWrite_control len)
  | cmdReserved => exact hostCommand_control h fun _ _ => h.dataMove (withdraw_dataMove s) h.requests
  | edge => exact lineEdge_control h
  | frameIn bytes => exact lineEdge_control (h.dataMove (addReplies_dataMove bytes s) h.requests)
  | write len payload =>
    exact (hostStore_control .tx 5 payload h).andThen fun u hu => hostCommand_control hu (acceptWrite_control len)
  | _ => cases hi

theorem applyAction_control {a : Action} (ha : a ≠ .reset) (h : Control s) : Ensures Control (applyAction a s) := by
  cases a with
  | reset => exact absurd rfl ha
  | host sp i bs => exact hostStore_control sp i bs h
  | line v => exact clockEdges_control v _ h
  | clk pin => exact clockEdges_control _ 1 h
  | timerAck => simp only [applyAction]; split <;> exact h.dataMove {} h.requests
  | ack => simp only [applyAction]; split <;> exact h.dataMove {} h.requests
  | present _ _ | reply _ | engine _ | timer _ | sink _ | issue _ | pass => exact h.dataMove {} h.requests

theorem hwReset_control (s : State) : Control (hwReset s) :=
  CallerAt.control (l := .rest) ⟨rfl, rfl, rfl, rfl, nofun⟩ (requestsOk_of_low ⟨rfl, rfl, rfl, rfl, rfl⟩)

/-! ## Every step keeps the invariant -/

/-- What keeps both parts keeps the invariant. -/
theorem Standing.inv_of {r : Result} (h : Standing s) (hk : Ensures (Keeps s) r) (hc : Ensures Control r) :
    Ensures Inv r :=
  ensures_iff.mpr fun _ ht => inv_iff.mpr ⟨h.keeps (hk.of_next ht), hc.of_next ht⟩

theorem seqStep_inv (hst : Standing s) (h : Control s) : Ensures Inv (seqStep s) := by
  refine seqStep_ensures (fun i hu => ?_) (fun _ => ?_) (fun hs => ?_) (fun hh hi hs => ?_) ?_
  · exact absurd (hst.uop.symm.trans hu) nofun
  · exact hst.inv_of (iStep_keeps s) (iStep_control h)
  · exact inv_iff.mpr ⟨hst.keeps (goI_keeps .take s), irqEnter_control h hs⟩
  · exact hst.inv_of (wStep_keeps s) (wStep_control h hi hh hs)
  · have henv := portCommand_environmental s
    exact hst.inv_of (exec_keeps (environmental_headerFits henv) s) (exec_environmental_control henv h)

theorem applyAction_inv (a : Action) (hst : Standing s) (h : Control s) : Ensures Inv (applyAction a s) := by
  by_cases ha : a = .reset
  · rw [ha]; exact inv_iff.mpr ⟨hst.hwReset, hwReset_control s⟩
  · exact hst.inv_of (applyAction_keeps ha s) (applyAction_control ha h)

/-- A word that a script issues through the ports is one of the environment's own operations (log 18). -/
theorem Standing.environmental_of_issue {item : Item} {rest : List Item} {word left : List Byte} {i : Instr}
    (h : Standing s) (hscript : s.env.script = item :: rest) (hact : item.act = .issue word)
    (hw : decode s.cfg word = .ok (i, left)) : environmental i = true := by
  have hports := (portsOnly_iff.mp h.ports).2 item (hscript ▸ List.mem_cons_self)
  simpa only [hact, Action.throughPorts, hw] using hports

theorem Control.dropItem (h : Control s) : Control (dropItem s) := ⟨h.phase, h.cs, h.critical, h.requests⟩

theorem step_inv (h : Inv s) : Ensures Inv (step s) := by
  obtain ⟨hst, hc⟩ := inv_iff.mp h
  have hcdrop := hc.dropItem
  refine step_ensures (seqStep_inv hst hc) (fun _ _ _ => seqStep_inv hst.dropItem hcdrop)
    (fun item rest word left i hscript hact hw => ?_) fun item _ _ => applyAction_inv item.act hst.dropItem hcdrop
  have henv := hst.environmental_of_issue hscript hact hw
  rw [issueOp_environmental henv]
  exact hst.dropItem.inv_of (exec_keeps (environmental_headerFits henv) _) (exec_environmental_control henv hcdrop)

theorem initial_inv {c : Config} {e : Env} (hc : c.wf = true)
    (hports : { State.initial c with env := e }.portsOnly = true) : Inv { State.initial c with env := e } :=
  inv_iff.mpr ⟨⟨hc, hports, buffersOk_empty rfl rfl, List.length_replicate⟩,
    CallerAt.control (l := .rest) ⟨rfl, rfl, rfl, rfl, nofun⟩ (requestsOk_of_low ⟨rfl, rfl, rfl, rfl, rfl⟩)⟩

/-- The invariant holds at every boundary of every run from reset. -/
theorem reachable_inv {c : Config} {e : Env} {k : Nat} {t : State} (hc : c.wf = true)
    (hports : { State.initial c with env := e }.portsOnly = true)
    (ht : runSteps k { State.initial c with env := e } = .next t) : Inv t :=
  runSteps_invariant (fun _ => step_inv) (initial_inv hc hports) ht

theorem callerPhase_live {l : WLabel} {st : TransportState} (h : callerPhase l st = true) : deadState st = false := by
  cases st with
  | writeFirstPortion | writeEot | readFirstPortion => cases l <;> simp [callerPhase, quiet] at h
  | _ => rfl

/-- The invariant admits no dead value of `state` (10_state.md R44). -/
theorem Control.live (h : Control s) : deadState s.state = false := by
  cases hi : s.ipc with
  | rest => exact callerPhase_live (h.caller hi rfl).phase
  | take =>
    have hphase : callerPhase s.wpc s.state = true ∧ inhibited s.wpc = false := by simpa [phaseOk, hi] using h.phase
    exact callerPhase_live hphase.1
  | rd1 | rd2 | rd3 | rd4 | rd5 | rd6 | rd7 | rd8 | rd9 =>
    rw [← Option.some.inj (h.reading hi rfl).phase]; rfl
  | wr1 | wr2 | wr3 => rw [(h.completing hi rfl).state]; rfl

/-! ## The obligations -/

/-- Settles O51: its part that operations keep, and its part that the labels of W and I decide. -/
theorem invariantKept : Obligations.InvariantKept := fun _ _ h hstep => (step_inv h).of_next hstep

/-- Settles O50: after reset W is at rest, no request stands and the buffers are empty. -/
theorem invariantAtReset : Obligations.InvariantAtReset := fun _ _ => initial_inv

theorem csAt_iff (l : WLabel) (st : TransportState) : csAt l st = true ↔
    (st = .readIrq ∨ st = .readEot) ∨ (st = .writeIrq ∧ l ≠ .cr3) ∨
      (l = .wu2 ∨ l = .wu3 ∨ l = .wu4 ∨ l = .wu5 ∨ l = .wu6 ∨ l = .wu7) := by
  have hwarm : warmUp l = true ↔ l = .wu2 ∨ l = .wu3 ∨ l = .wu4 ∨ l = .wu5 ∨ l = .wu6 ∨ l = .wu7 := by
    cases l <;> simp [warmUp]
  simp only [csAt, Bool.or_eq_true, Bool.and_eq_true, decide_eq_true_eq, or_assoc, hwarm]

/-- Settles O52: the rule is the chip-select clause of the invariant. -/
theorem chipSelectRule : Obligations.ChipSelectRule := by
  intro c e k t hc hports hrun _
  obtain ⟨_, hcontrol⟩ := inv_iff.mp (reachable_inv hc hports hrun)
  rw [hcontrol.cs, csExpected_eq]
  exact csAt_iff t.wpc t.state

theorem deadState_iff {st : TransportState} :
    deadState st = true ↔ st = .writeFirstPortion ∨ st = .writeEot ∨ st = .readFirstPortion := by
  cases st <;> simp [deadState]

theorem liveState_iff {st : TransportState} :
    deadState st = false ↔
      st = .powerUp ∨ st = .initialized ∨ st = .idle ∨ st = .writeIrq ∨ st = .readIrq ∨ st = .readEot := by
  cases st <;> simp [deadState]

/-- At I_TAKE the step runs the arm of the value of `state`. -/
theorem step_take (hs : runsAlone s) (hi : s.ipc = .take) : step s = exec (irqArm s.state) s := by
  obtain ⟨hscript, hbus, hrun⟩ := hs
  rw [step_alone hscript, seqStep_irqPath hrun hbus (by rw [hi]; decide), iStep_take hi]

theorem irqArm_other {st : TransportState} (hp : st ≠ .powerUp) (hi : st ≠ .idle) (hw : st ≠ .writeIrq) :
    irqArm st = .onIrqOther (stateCode st) := by
  cases st <;> simp_all [irqArm]

/-- W waits at W_SPIN for Idle (42_transport_write.md R169). -/
theorem step_spin (hs : runsAlone s) (hw : s.wpc = .spin) (hi : s.ipc = .rest) (hp : s.irqPend = false)
    (hst : s.state ≠ .idle) : step s = .next s := by
  obtain ⟨hscript, hbus, hrun⟩ := hs
  rw [step_alone hscript, seqStep_caller hrun hbus hi (irqStart_noPend hp) (by rw [hw]; decide)]
  simp only [wStep, hw, if_neg hst]

/-- Settles O53: the invariant admits the live values only, `Continues` says that no step writes a dead one, and a
dead value takes neither an arm of its own at I_TAKE nor W past W_SPIN. -/
theorem liveStates : Obligations.LiveStates := by
  refine ⟨fun c e k t hports hc hrun => ?_, fun s t hstep hdead => ?_, fun s hs hdead => ⟨fun hi => ?_, ?_⟩⟩
  · obtain ⟨_, hcontrol⟩ := inv_iff.mp (reachable_inv hc hports hrun)
    exact liveState_iff.mp hcontrol.live
  · exact ((step_continues s).of_next hstep).live (deadState_iff.mpr hdead)
  · have hother : irqArm s.state = .onIrqOther (stateCode s.state) := by
      rcases hdead with hst | hst | hst <;> rw [hst] <;> rfl
    rw [step_take hs hi, hother]
    rfl
  · intro hw hi hp k
    have hst : s.state ≠ .idle := by rcases hdead with hst | hst | hst <;> rw [hst] <;> decide
    exact runSteps_fixed (step_spin hs hw hi hp hst) k

/-- Settles O7: the code of `state` decodes to the arm of its value. -/
theorem takeRunsArm : Obligations.TakeRunsArm := by
  intro s hs hi
  rw [step_take hs hi]
  refine ⟨fun hst => ?_, fun hst => ?_, fun hst => ?_, fun hp hidle hw => ?_⟩
  · rw [hst]; rfl
  · rw [hst]; rfl
  · rw [hst]; rfl
  · rw [irqArm_other hp hidle hw]

/-- Settles O49: the due item is the reset, and each value is a field of `hwReset`. -/
theorem resetInput : Obligations.ResetInput := by
  intro s later hscript
  refine ⟨hwReset (dropItem s), step_due hscript rfl, ?_⟩
  and_intros <;> rfl

/-- Settles O48: the values are those of `State.initial`. -/
theorem resetValues : Obligations.ResetValues := by
  intro c s
  and_intros <;> rfl

/-- Settles O26: where `cmd_ready = 1` a command is its effect once it is gone from the port. -/
theorem commandsAccepted : Obligations.CommandsAccepted := by
  intro s len
  refine ⟨cmdReady_iff s, rfl, fun hr => ⟨?_, acceptWrite len (withdraw s), ?_, rfl, rfl⟩⟩
  · exact congrArg Host.Outcome.next (hostCommand_ready hr)
  · exact congrArg Host.Outcome.next (hostCommand_ready hr)

end Sys2Proof.Machine
end

section
/-! Settles the family of 20_memory.md. This part: the host's buffer port (O29) and one micro-step of a shuttle
(O16, O18). -/

namespace Sys2Proof.Machine

/-! ## The host's buffer port (30_encoding.md R109) -/

/-- Every index that the port names in a store is one it can read back. -/
theorem bufRdata_of_le {s : State} {sp : Space} {j : Nat} (h : j ≤ s.cap sp) :
    s.bufRdata sp j = some (s.bufByte sp j) := if_pos h

theorem cap_store (s : State) (sp sp' : Space) (i : Nat) (bs : List Byte) : (s.store sp i bs).cap sp' = s.cap sp' := by
  cases sp' <;> simp

theorem bufRdata_store_inside {s : State} {sp : Space} {i j : Nat} {bs : List Byte}
    (hfit : i + bs.length ≤ s.cap sp + 1) (hi : i ≤ j) (hj : j < i + bs.length) :
    (s.store sp i bs).bufRdata sp j = bs[j - i]? := by
  have hlt : j - i < bs.length := by omega
  rw [bufRdata_of_le (by rw [cap_store]; omega), bufByte_store, if_pos ⟨hi, hj⟩, List.getElem?_eq_getElem hlt]
  simp [hlt]

theorem bufRdata_store_outside (s : State) (sp : Space) {i j : Nat} {bs : List Byte}
    (hj : j < i ∨ i + bs.length ≤ j) : (s.store sp i bs).bufRdata sp j = s.bufRdata sp j := by
  have hbyte : (s.store sp i bs).bufByte sp j = s.bufByte sp j := by
    rw [bufByte_store, if_neg (by omega)]
  unfold State.bufRdata
  rw [cap_store, hbyte]

/-- A store moves the bytes of the buffers and nothing else. -/
theorem store_frame (s : State) (sp : Space) (i : Nat) (bs : List Byte) :
    s.store sp i bs = { s with tx := (s.store sp i bs).tx, rx := (s.store sp i bs).rx } := by
  cases sp <;> rfl

/-- Settles O29: the due line is the store, which is done, done without effect, or refused. -/
theorem hostBufferPort : Obligations.HostBufferPort := by
  intro s sp i bytes later hscript
  have hdrop : dropItem s = { s with env := { s.env with script := later } } := by
    simp only [dropItem, hscript, List.tail_cons]
  have hstep : step s = hostStore sp i bytes { s with env := { s.env with script := later } } := by
    rw [step_due hscript rfl, hdrop]
    rfl
  rw [hstep]
  generalize hu : ({ s with env := { s.env with script := later } } : State) = u
  have hcap : s.cap sp = u.cap sp := by subst hu; cases sp <;> rfl
  have hhalted : s.halted = u.halted := by subst hu; rfl
  rw [hcap]
  refine ⟨fun hfit hh => hostStore_halted (hhalted ▸ hh) hfit, fun hfit hh => ?_, fun hover => ?_⟩
  · refine ⟨u.store sp i bytes, ?_, fun j hi hj => bufRdata_store_inside hfit hi hj, fun j hj => ?_,
      fun sp' hne j => ?_, ?_⟩
    · simp [hostStore, hfit, ← hhalted, hh]
    · rw [bufRdata_store_outside u sp hj]; subst hu; cases sp <;> rfl
    · rw [bufByte_store_other u i j bytes hne.symm]; subst hu; cases sp' <;> rfl
    · rw [store_frame]; subst hu; rfl
  · exact if_neg (by omega)

/-! ## One micro-step of a transmit shuttle (40_bus_driver.md R126) -/

theorem loadTx_eq (n : Count) (s : State) :
    loadTx n s = { s with txOpen := true, txRem := if s.txOpen then s.txRem else n } := by
  cases ho : s.txOpen with
  | true => rw [loadTx_open ho]; cases s; cases ho; rfl
  | false => rw [loadTx_closed ho]; rfl

theorem loadRx_eq (n : Count) (s : State) :
    loadRx n s = { s with rxOpen := true, rxRem := if s.rxOpen then s.rxRem else n } := by
  cases ho : s.rxOpen with
  | true => rw [loadRx_open ho]; cases s; cases ho; rfl
  | false => rw [loadRx_closed ho]; rfl

/-- The shuttle stays open unless the byte was the last. -/
theorem open_iff_notLast (rem : Count) : (rem - 1 != 0) = decide (rem ≠ 1) := by
  rw [Bool.eq_iff_iff]
  simp [BitVec.sub_eq_iff_eq_add]

section
variable {s : State} {base : Nat} {n rem : Count} (hrem : rem = if s.txOpen then s.txRem else n)
include hrem

theorem loadTx_rem : loadTx n s = { s with txOpen := true, txRem := rem } := by rw [loadTx_eq, hrem]

theorem shuttleTx_done (h0 : rem = 0) : shuttleTx base n s = { s with txOpen := false, txRem := 0 } := by
  have hload := loadTx_rem hrem
  rcases shuttleTx_cases base n s with ⟨_, ht⟩ | ⟨hr, _⟩ | ⟨_, _, hr, _⟩
  · rw [ht, hload, h0]
  · exact absurd h0 (by simpa [hload] using hr)
  · exact absurd h0 (by simpa [hload] using hr)

theorem shuttleTx_wait (h0 : rem ≠ 0) (ha : s.env.answer? = none) :
    shuttleTx base n s = raiseFromTx (base + cursor n rem) { s with txOpen := true, txRem := rem } := by
  have hload := loadTx_rem hrem
  rcases shuttleTx_cases base n s with ⟨hr, _⟩ | ⟨_, _, ht⟩ | ⟨_, _, _, ha', _⟩
  · exact absurd (by simpa [hload] using hr) h0
  · rw [ht, hload]
  · simp [ha] at ha'

theorem shuttleTx_ack {r : Byte} {rest : List Byte} (h0 : rem ≠ 0) (ha : s.env.answer? = some (r, rest)) :
    shuttleTx base n s =
      let u := raiseFromTx (base + cursor n rem) { s with txOpen := true, txRem := rem }
      { u with txOpen := decide (rem ≠ 1), txRem := rem - 1, xReq := false, xIn := r,
               env := { s.env with replies := rest }, trace := .exchange u.xOut r :: s.trace } := by
  have hload := loadTx_rem hrem
  rcases shuttleTx_cases base n s with ⟨hr, _⟩ | ⟨_, ha', _⟩ | ⟨r', rest', _, ha', ht⟩
  · exact absurd (by simpa [hload] using hr) h0
  · simp [ha] at ha'
  · rw [ha] at ha'
    cases ha'
    rw [ht, hload, open_iff_notLast]

end

/-- A request that stands keeps its byte. -/
theorem raiseFromTx_standing {i : Nat} {s : State} (hx : s.xReq = true) : raiseFromTx i s = s := if_pos hx

/-- A request raised from within TX sends the byte there, one raised from above its guard sends some byte (R68). -/
theorem raiseFromTx_raised {s : State} (i : Nat) (hx : s.xReq = false) :
    ∃ (out : Byte) (free : Nat), (i ≤ s.cfg.txCap → out = s.bufByte .tx i ∧ free = s.free) ∧
      raiseFromTx i s = { s with xReq := true, xOut := out, free := free } := by
  refine ⟨_, _, fun hi => ?_, raiseFromTx_eq i s⟩
  simp [hx, hi]

/-- Settles O16: the shuttle's micro-step is done, waits or exchanges a byte, and its request is new or stands. -/
theorem shuttleTxMicroStep : Obligations.ShuttleTxMicroStep := by
  intro s base n rem i hrem hi
  subst hi
  have hexec : exec (.shuttleTx base n) s = .next (shuttleTx base n s) := rfl
  simp only [hexec, Host.Outcome.next.injEq]
  refine ⟨shuttleTx_done hrem, fun r rest h0 hx ha => ?_, fun h0 hx ha => ?_, fun r rest _ h0 hx ha => ?_,
    fun hopen h0 hx ha => ?_⟩
  · obtain ⟨out, free, hfrom, hraise⟩ := raiseFromTx_raised (base + cursor n rem)
      (s := { s with txOpen := true, txRem := rem }) hx
    refine ⟨out, free, hfrom, ?_⟩
    rw [shuttleTx_ack hrem h0 ha, hraise, ← hx]
  · obtain ⟨out, free, hfrom, hraise⟩ := raiseFromTx_raised (base + cursor n rem)
      (s := { s with txOpen := true, txRem := rem }) hx
    exact ⟨out, free, hfrom, (shuttleTx_wait hrem h0 ha).trans hraise⟩
  · rw [shuttleTx_ack hrem h0 ha, raiseFromTx_standing (s := { s with txOpen := true, txRem := rem }) hx]
  · rw [shuttleTx_wait hrem h0 ha, raiseFromTx_standing (s := { s with txOpen := true, txRem := rem }) hx,
      ← loadTx_rem hrem, loadTx_open hopen]

/-! ## One micro-step of a receive shuttle (R127) -/

theorem xchg_wait {b : Byte} {s : State} (ha : s.env.answer? = none) :
    xchg b s = { s with xReq := true, xOut := if s.xReq then s.xOut else b } := by
  rcases xchg_cases b s with ⟨_, hx⟩ | ⟨r, rest, ha', _⟩
  · exact hx
  · simp [ha] at ha'

theorem xchg_held {b : Byte} {s : State} (hx : s.xReq = true) (ha : s.env.answer? = none) : xchg b s = s := by
  unfold xchg
  rw [if_pos hx, pollXchg_wait ha]

theorem xchg_ack {b r : Byte} {rest : List Byte} {s : State} (ha : s.env.answer? = some (r, rest)) :
    xchg b s = { s with xReq := false, xOut := if s.xReq then s.xOut else b, xIn := r,
                        env := { s.env with replies := rest },
                        trace := .exchange (if s.xReq then s.xOut else b) r :: s.trace } := by
  rcases xchg_cases b s with ⟨ha', _⟩ | ⟨r', rest', ha', hx⟩
  · simp [ha] at ha'
  · rw [ha] at ha'
    cases ha'
    exact hx

section
variable {s : State} {base : Nat} {n k0 rem : Count} (hrem : rem = if s.rxOpen then s.rxRem else n)
include hrem

theorem loadRx_rem : loadRx n s = { s with rxOpen := true, rxRem := rem } := by rw [loadRx_eq, hrem]

theorem shuttleRx_done (h0 : rem = 0) :
    shuttleRx base n k0 s = .next { s with rxOpen := false, rxRem := 0 } := by
  have hload := loadRx_rem hrem
  rcases shuttleRx_cases base n k0 s with ⟨_, ht⟩ | ⟨hr, _⟩ | ⟨_, _, hr, _⟩ | ⟨hr, _⟩
  · rw [ht, hload, h0]
  all_goals exact absurd h0 (by simpa [hload] using hr)

theorem shuttleRx_wait (h0 : rem ≠ 0) (ha : s.env.answer? = none) :
    shuttleRx base n k0 s =
      .next (xchg (rdTxAt s.cfg (k0.toNat + cursor n rem)) { s with rxOpen := true, rxRem := rem }) := by
  have hload := loadRx_rem hrem
  rcases shuttleRx_cases base n k0 s with ⟨hr, _⟩ | ⟨_, _, ht⟩ | ⟨_, _, _, ha', _⟩ | ⟨_, ha', _⟩
  · exact absurd (by simpa [hload] using hr) h0
  · rw [ht, hload]
  · simp [ha] at ha'
  · exact absurd ha ha'

theorem shuttleRx_ack {r : Byte} {rest : List Byte} (h0 : rem ≠ 0) (ha : s.env.answer? = some (r, rest))
    (hi : base + cursor n rem ≤ s.cfg.rxCap) :
    shuttleRx base n k0 s = .next
      (let out := if s.xReq then s.xOut else rdTxAt s.cfg (k0.toNat + cursor n rem)
      { s with rxOpen := decide (rem ≠ 1), rxRem := rem - 1, xReq := false, xOut := out, xIn := r
               rx := s.rx.write (base + cursor n rem) r, env := { s.env with replies := rest }
               trace := .exchange out r :: s.trace }) := by
  have hload := loadRx_rem hrem
  rcases shuttleRx_cases base n k0 s with ⟨hr, _⟩ | ⟨_, ha', _⟩ | ⟨_, _, _, ha', _, ht⟩ |
    ⟨_, _, hover, _⟩
  · exact absurd (by simpa [hload] using hr) h0
  · simp [ha] at ha'
  · rw [ha] at ha'
    cases ha'
    rw [ht, xchg_ack (s := loadRx n s) (by rw [hload]; exact ha), hload, open_iff_notLast]
  · rw [hload] at hover
    exact absurd hi (Nat.not_le.mpr hover)

theorem shuttleRx_overrun {r : Byte} {rest : List Byte} (h0 : rem ≠ 0) (ha : s.env.answer? = some (r, rest))
    (hi : s.cfg.rxCap < base + cursor n rem) : shuttleRx base n k0 s = .fault .rxOverrun := by
  have hload := loadRx_rem hrem
  rcases shuttleRx_cases base n k0 s with ⟨hr, _⟩ | ⟨_, ha', _⟩ | ⟨_, _, _, _, hfit, _⟩ | ⟨_, _, _, ht⟩
  · exact absurd (by simpa [hload] using hr) h0
  · simp [ha] at ha'
  · rw [hload] at hfit
    exact absurd hfit (Nat.not_le.mpr hi)
  · exact ht

end

/-- What a write to a buffer does to its bytes. -/
theorem bufByte_write {s t : State} {sp : Space} {i : Nat} {v : Byte} (hmem : t.mem sp = (s.mem sp).write i v)
    (hepoch : t.epoch = s.epoch) (j : Nat) : t.bufByte sp j = if j = i then v else s.bufByte sp j := by
  simp only [State.bufByte, hmem, hepoch, Memory.read_write]
  by_cases hij : i = j <;> simp [hij, eq_comm]

/-- Settles O18: as O16, with the store of the answer and its fault above the guard. -/
theorem shuttleRxMicroStep : Obligations.ShuttleRxMicroStep := by
  intro s base n k0 rem k hrem hk
  subst hk
  have hexec : exec (.shuttleRx base n k0) s = shuttleRx base n k0 s := rfl
  rw [hexec]
  refine ⟨shuttleRx_done hrem, fun r rest h0 hx ha hi => ?_, fun r rest h0 ha hi => shuttleRx_overrun hrem h0 ha hi,
    fun h0 hx ha => ?_, fun r rest _ h0 hx ha hi => ?_, fun hopen h0 hx ha => ?_⟩
  · refine ⟨_, shuttleRx_ack hrem h0 ha hi, bufByte_write rfl rfl, fun _ => rfl, ?_, ?_⟩
    · simp [hx, cursor]
    · simp only [hx]
  · rw [shuttleRx_wait hrem h0 ha, xchg_wait (s := { s with rxOpen := true, rxRem := rem }) ha]
    simp [hx, cursor]
  · refine ⟨_, shuttleRx_ack hrem h0 ha hi, bufByte_write rfl rfl, fun _ => rfl, ?_⟩
    simp only [hx, if_true]
  · rw [shuttleRx_wait hrem h0 ha, ← loadRx_rem hrem, loadRx_open hopen, xchg_held hx ha]

end Sys2Proof.Machine
end

section
/-! The shuttles over a whole range (O17, O19): one micro-step after another, each answered at once. The sequencers
run the same micro-steps at their labels, so the induction is over any function that issues the shuttle. -/

namespace Sys2Proof.Machine

/-! ## Repeated micro-steps -/

/-- n times a step function, up to the first stop: `repeatExec` and `runSteps` are instances. -/
def iterate (F : State → Result) : Nat → State → Result
  | 0, s => .next s
  | n + 1, s =>
    match F s with
    | .next t => iterate F n t
    | .fault r => .fault r
    | .refused r => .refused r

theorem iterate_exec (i : Instr) (n : Nat) (s : State) : iterate (exec i) n s = repeatExec i n s := by
  induction n generalizing s with
  | zero => rfl
  | succ n ih => cases h : exec i s <;> simp [iterate, repeatExec, h, ih]

theorem iterate_step (n : Nat) (s : State) : iterate step n s = runSteps n s := by
  induction n generalizing s with
  | zero => rfl
  | succ n ih => cases h : step s <;> simp [iterate, runSteps, h, ih]

theorem iterate_succ {F : State → Result} {n : Nat} {s t : State} (h : F s = .next t) :
    iterate F (n + 1) s = iterate F n t := by
  simp only [iterate, h]

theorem iterate_one {F : State → Result} {s t : State} (h : F s = .next t) : iterate F 1 s = .next t :=
  iterate_succ h

theorem iterate_fault {F : State → Result} {n : Nat} {s : State} {r : Fault} (h : F s = .fault r) :
    iterate F (n + 1) s = .fault r := by
  simp only [iterate, h]

theorem whenDone_id (done : State → Bool) (r : Result) : whenDone done id r = r := by
  cases r <;> simp [whenDone, andThen]

/-! ## The answers of the byte engine (30_encoding.md R110, R114) -/

/-- An engine that can give one more answer gives it now, and then the others. -/
theorem Env.canGive_succ {e : Env} {m : Nat} (h : e.canGive (m + 1)) :
    ∃ r rest, e.answer? = some (r, rest) ∧ Env.canGive { e with replies := rest } m ∧
      e.gives (m + 1) = r :: Env.gives { e with replies := rest } m ∧
      e.afterGiving (m + 1) = Env.afterGiving { e with replies := rest } m := by
  cases hreplies : e.replies with
  | cons r rest =>
    refine ⟨r, rest, answer_listed hreplies, ?_, ?_, ?_⟩
    · exact h.imp_left fun hlen => by simpa [hreplies] using hlen
    · simp [Env.gives, hreplies]
    · simp [Env.afterGiving, hreplies]
  | nil =>
    have hauto : e.xAuto.isSome = true := h.resolve_left (by simp [hreplies])
    obtain ⟨r, hr⟩ := Option.isSome_iff_exists.mp hauto
    refine ⟨r, [], by rw [answer_unlisted hreplies, hr]; rfl, .inr hauto, ?_, ?_⟩
    · simp [Env.gives, hreplies, hr, List.replicate_succ]
    · simp [Env.afterGiving, hreplies]

@[simp] theorem Env.gives_zero (e : Env) : e.gives 0 = [] := by simp [Env.gives]

theorem Env.gives_length {e : Env} {m : Nat} : (e.gives m).length = m := by
  simp only [Env.gives, List.length_append, List.length_take, List.length_replicate]
  omega

theorem exchanges_cons (b r : Byte) (sent received : List Byte) :
    exchanges (b :: sent) (r :: received) = exchanges sent received ++ [.exchange b r] := by
  simp [exchanges]

theorem bytesFrom_succ (s : State) (sp : Space) (i m : Nat) :
    s.bytesFrom sp i (m + 1) = s.bufByte sp i :: s.bytesFrom sp (i + 1) m := by
  simp [State.bytesFrom, List.range_succ_eq_map, Function.comp_def, Nat.add_assoc, Nat.add_comm 1]

theorem readingBytes_succ (c : Config) (k m : Nat) :
    readingBytes c k (m + 1) = rdTxAt c k :: readingBytes c (k + 1) m := by
  simp [readingBytes, List.range_succ_eq_map, Function.comp_def, Nat.add_assoc, Nat.add_comm 1]

/-! ## Counting down -/

theorem count_ne_zero {c : Count} {m : Nat} (h : c.toNat = m + 1) : c ≠ 0 := by
  rintro rfl
  exact absurd h (by simp)

theorem exists_count_succ {c : Count} (h : c ≠ 0) : ∃ m, c.toNat = m + 1 :=
  Nat.exists_eq_succ_of_ne_zero fun h0 => h (BitVec.eq_of_toNat_eq h0)

theorem count_pred {c : Count} {m : Nat} (h : c.toNat = m + 1) : (c - 1).toNat = m := by
  have : (1 : Count).toNat ≤ c.toNat := by rw [h]; simp
  rw [BitVec.toNat_sub_of_le this, h]
  rfl

theorem count_last {c : Count} (h : c.toNat = 1) : c = 1 := BitVec.eq_of_toNat_eq h

theorem count_notLast {c : Count} {m : Nat} (h : c.toNat = m + 1 + 1) : c ≠ 1 := by
  rintro rfl
  exact absurd h (by simp)

theorem cursor_self (n : Count) : cursor n n = 0 := Nat.sub_self _

/-- The position goes up by one where a byte is counted off. -/
theorem cursor_pred {n rem : Count} {m : Nat} (hm : rem.toNat = m + 1) (hle : rem.toNat ≤ n.toNat) :
    cursor n (rem - 1) = cursor n rem + 1 := by
  unfold cursor
  rw [count_pred hm]
  omega

/-- Every position lies within a range that ends at the guard or below. -/
theorem cursor_fits {n rem : Count} {base cap m : Nat} (hm : rem.toNat = m + 1) (hle : rem.toNat ≤ n.toNat)
    (hfit : base + n.toNat ≤ cap + 1) : base + cursor n rem ≤ cap := by
  unfold cursor
  omega

/-! ## The transmit shuttle (40_bus_driver.md R126) -/

/-- One byte exchanged by a transmit shuttle that had `rem` bytes left. -/
def sendByte (rem : Count) (out r : Byte) (rest : List Byte) (s : State) : State :=
  { s with txOpen := decide (rem ≠ 1), txRem := rem - 1, xOut := out, xIn := r,
           env := { s.env with replies := rest }, trace := .exchange out r :: s.trace }

theorem sendByte_open {rem : Count} {m : Nat} (hm : rem.toNat = m + 1 + 1) (out r : Byte) (rest : List Byte)
    (s : State) : (sendByte rem out r rest s).txOpen = true := decide_eq_true (count_notLast hm)

/-- t comes from s by exchanging the m bytes of TX from index i on, to the end of the shuttle. -/
structure SentRange (i m : Nat) (s t : State) : Prop where
  trace : t.trace = exchanges (s.bytesFrom .tx i m) (s.env.gives m) ++ s.trace
  frame : t = { s with txOpen := false, txRem := 0, xOut := t.xOut, xIn := t.xIn, trace := t.trace,
                       env := s.env.afterGiving m }

/-- A micro-step from within TX, answered at once. -/
theorem shuttleTx_prompt {s : State} {base : Nat} {n rem : Count} {r : Byte} {rest : List Byte}
    (hrem : rem = if s.txOpen then s.txRem else n) (h0 : rem ≠ 0) (hx : s.xReq = false)
    (ha : s.env.answer? = some (r, rest)) (hi : base + cursor n rem ≤ s.cfg.txCap) :
    exec (.shuttleTx base n) s = .next (sendByte rem (s.bufByte .tx (base + cursor n rem)) r rest s) := by
  obtain ⟨_, hprompt, _⟩ := shuttleTxMicroStep s base n rem _ hrem rfl
  obtain ⟨out, free, hfrom, hexec⟩ := hprompt r rest h0 hx ha
  obtain ⟨rfl, rfl⟩ := hfrom hi
  exact hexec

theorem sendByte_last {i : Nat} {r : Byte} {rest : List Byte} {s : State} (ha : s.env.answer? = some (r, rest))
    (hgive : s.env.canGive 1) : SentRange i 1 s (sendByte 1 (s.bufByte .tx i) r rest s) := by
  obtain ⟨r', rest', ha', _, hgives, hafter⟩ := Env.canGive_succ hgive
  rw [ha] at ha'
  cases ha'
  refine ⟨?_, ?_⟩
  · rw [hgives, bytesFrom_succ, exchanges_cons]; rfl
  · rw [hafter]; rfl

/-- One byte, then the range after it. -/
theorem SentRange.cons {i m : Nat} {rem : Count} {r : Byte} {rest : List Byte} {s t : State}
    (h : SentRange (i + 1) m (sendByte rem (s.bufByte .tx i) r rest s) t)
    (hgives : s.env.gives (m + 1) = r :: Env.gives { s.env with replies := rest } m)
    (hafter : s.env.afterGiving (m + 1) = Env.afterGiving { s.env with replies := rest } m) :
    SentRange i (m + 1) s t := by
  refine ⟨?_, ?_⟩
  · rw [hgives, bytesFrom_succ, exchanges_cons, List.append_assoc]
    exact h.trace
  · rw [hafter]
    exact h.frame

/-- Whoever issues a transmit shuttle within TX until it is done sends the rest of its range, if every request is
answered at once. -/
theorem iterate_shuttleTx {F : State → Result} {f : State → State} {At : State → Prop} {base : Nat} {n : Count}
    (hF : ∀ u, At u → F u = whenDone txDone f (exec (.shuttleTx base n) u))
    (hAt : ∀ u rem out r rest, At u → At (sendByte rem out r rest u)) {m : Nat} {s : State} {rem : Count}
    (hs : At s) (hrem : rem = if s.txOpen then s.txRem else n) (hm : rem.toNat = m + 1)
    (hle : rem.toNat ≤ n.toNat) (hfit : base + n.toNat ≤ s.cfg.txCap + 1) (hx : s.xReq = false)
    (hgive : s.env.canGive (m + 1)) :
    ∃ t, iterate F (m + 1) s = .next (f t) ∧ SentRange (base + cursor n rem) (m + 1) s t := by
  induction m generalizing s rem with
  | zero =>
    obtain ⟨r, rest, ha, _⟩ := Env.canGive_succ hgive
    have hi := cursor_fits hm hle hfit
    have hstep := shuttleTx_prompt hrem (count_ne_zero hm) hx ha hi
    obtain rfl := count_last hm
    refine ⟨_, iterate_one ?_, sendByte_last ha hgive⟩
    rw [hF s hs, hstep]
    rfl
  | succ m ih =>
    obtain ⟨r, rest, ha, hgive', hgives, hafter⟩ := Env.canGive_succ hgive
    have hi := cursor_fits hm hle hfit
    have hopen := sendByte_open hm (s.bufByte .tx (base + cursor n rem)) r rest s
    have hstep : F s = .next (sendByte rem (s.bufByte .tx (base + cursor n rem)) r rest s) := by
      rw [hF s hs, shuttleTx_prompt hrem (count_ne_zero hm) hx ha hi, whenDone_next]
      simp [txDone, hopen]
    obtain ⟨t, hrun, hsent⟩ := ih (rem := rem - 1) (hAt s _ _ r rest hs) (if_pos hopen).symm (count_pred hm)
      (by rw [count_pred hm]; omega) hfit hx hgive'
    rw [cursor_pred hm hle] at hsent
    exact ⟨t, (iterate_succ hstep).trans hrun, hsent.cons hgives hafter⟩

/-- Settles O17: the induction over the count, for `exec` as what issues the shuttle. -/
theorem shuttleTxSendsRange : Obligations.ShuttleTxSendsRange := by
  intro s base n hn hclosed hx hfit hgive
  obtain ⟨m, hm⟩ := exists_count_succ hn
  rw [hm] at hgive ⊢
  obtain ⟨t, hrun, htrace, hframe⟩ := iterate_shuttleTx (F := exec (.shuttleTx base n)) (f := id)
    (At := fun _ => True) (fun u _ => (whenDone_id _ _).symm) (fun _ _ _ _ _ h => h) trivial (rem := n)
    (by simp [hclosed]) hm (Nat.le_refl _) hfit hx hgive
  rw [cursor_self] at htrace
  exact ⟨t, (iterate_exec _ _ _).symm.trans hrun, htrace, hframe.trans (by rw [← hclosed])⟩

/-! ## The receive shuttle (R127) -/

/-- One byte exchanged and stored by a receive shuttle that had `rem` bytes left. -/
def receiveByte (rem : Count) (i : Nat) (out r : Byte) (rest : List Byte) (s : State) : State :=
  { s with rxOpen := decide (rem ≠ 1), rxRem := rem - 1, xOut := out, xIn := r, rx := s.rx.write i r,
           env := { s.env with replies := rest }, trace := .exchange out r :: s.trace }

theorem receiveByte_open {rem : Count} {m : Nat} (hm : rem.toNat = m + 1 + 1) (i : Nat) (out r : Byte)
    (rest : List Byte) (s : State) : (receiveByte rem i out r rest s).rxOpen = true :=
  decide_eq_true (count_notLast hm)

/-- t comes from s by m exchanges of a read transaction from position k on, whose answers are stored in RX from
index i on, to the end of the shuttle. -/
structure ReceivedRange (k i m : Nat) (s t : State) : Prop where
  trace : t.trace = exchanges (readingBytes s.cfg k m) (s.env.gives m) ++ s.trace
  stored : t.rx = s.rx.writeBytes i (s.env.gives m)
  frame : t = { s with rxOpen := false, rxRem := 0, rx := t.rx, xOut := t.xOut, xIn := t.xIn, trace := t.trace,
                       env := s.env.afterGiving m }

/-- A micro-step that stores within RX, answered at once. -/
theorem shuttleRx_prompt {s : State} {base : Nat} {n k0 rem : Count} {r : Byte} {rest : List Byte}
    (hrem : rem = if s.rxOpen then s.rxRem else n) (h0 : rem ≠ 0) (hx : s.xReq = false)
    (ha : s.env.answer? = some (r, rest)) (hi : base + cursor n rem ≤ s.cfg.rxCap) :
    exec (.shuttleRx base n k0) s =
      .next (receiveByte rem (base + cursor n rem) (rdTxAt s.cfg (k0.toNat + cursor n rem)) r rest s) := by
  refine (shuttleRx_ack hrem h0 ha hi).trans ?_
  simp only [receiveByte, hx, Bool.false_eq_true, if_false]

theorem receiveByte_last {k i : Nat} {r : Byte} {rest : List Byte} {s : State}
    (ha : s.env.answer? = some (r, rest)) (hgive : s.env.canGive 1) :
    ReceivedRange k i 1 s (receiveByte 1 i (rdTxAt s.cfg k) r rest s) := by
  obtain ⟨r', rest', ha', _, hgives, hafter⟩ := Env.canGive_succ hgive
  rw [ha] at ha'
  cases ha'
  refine ⟨?_, ?_, ?_⟩
  · rw [hgives, readingBytes_succ, exchanges_cons]; rfl
  · rw [hgives, Env.gives_zero]; rfl
  · rw [hafter]; rfl

/-- One byte, then the range after it. -/
theorem ReceivedRange.cons {k i m : Nat} {rem : Count} {r : Byte} {rest : List Byte} {s t : State}
    (h : ReceivedRange (k + 1) (i + 1) m (receiveByte rem i (rdTxAt s.cfg k) r rest s) t)
    (hgives : s.env.gives (m + 1) = r :: Env.gives { s.env with replies := rest } m)
    (hafter : s.env.afterGiving (m + 1) = Env.afterGiving { s.env with replies := rest } m) :
    ReceivedRange k i (m + 1) s t := by
  refine ⟨?_, ?_, ?_⟩
  · rw [hgives, readingBytes_succ, exchanges_cons, List.append_assoc]
    exact h.trace
  · rw [hgives]
    exact h.stored
  · rw [hafter]
    exact h.frame

/-- Whoever issues a receive shuttle within RX until it is done stores the rest of its range, if every request is
answered at once. -/
theorem iterate_shuttleRx {F : State → Result} {f : State → State} {At : State → Prop} {base : Nat} {n k0 : Count}
    (hF : ∀ u, At u → F u = whenDone rxDone f (exec (.shuttleRx base n k0) u))
    (hAt : ∀ u rem i out r rest, At u → At (receiveByte rem i out r rest u)) {m : Nat} {s : State} {rem : Count}
    (hs : At s) (hrem : rem = if s.rxOpen then s.rxRem else n) (hm : rem.toNat = m + 1)
    (hle : rem.toNat ≤ n.toNat) (hfit : base + n.toNat ≤ s.cfg.rxCap + 1) (hx : s.xReq = false)
    (hgive : s.env.canGive (m + 1)) :
    ∃ t, iterate F (m + 1) s = .next (f t) ∧
      ReceivedRange (k0.toNat + cursor n rem) (base + cursor n rem) (m + 1) s t := by
  induction m generalizing s rem with
  | zero =>
    obtain ⟨r, rest, ha, _⟩ := Env.canGive_succ hgive
    have hi := cursor_fits hm hle hfit
    have hstep := shuttleRx_prompt (k0 := k0) hrem (count_ne_zero hm) hx ha hi
    obtain rfl := count_last hm
    refine ⟨_, iterate_one ?_, receiveByte_last ha hgive⟩
    rw [hF s hs, hstep]
    rfl
  | succ m ih =>
    obtain ⟨r, rest, ha, hgive', hgives, hafter⟩ := Env.canGive_succ hgive
    have hi := cursor_fits hm hle hfit
    have hopen := receiveByte_open hm (base + cursor n rem) (rdTxAt s.cfg (k0.toNat + cursor n rem)) r rest s
    have hstep : F s =
        .next (receiveByte rem (base + cursor n rem) (rdTxAt s.cfg (k0.toNat + cursor n rem)) r rest s) := by
      rw [hF s hs, shuttleRx_prompt hrem (count_ne_zero hm) hx ha hi, whenDone_next]
      simp [rxDone, hopen]
    obtain ⟨t, hrun, hreceived⟩ := ih (rem := rem - 1) (hAt s _ _ _ r rest hs) (if_pos hopen).symm (count_pred hm)
      (by rw [count_pred hm]; omega) hfit hx hgive'
    rw [cursor_pred hm hle] at hreceived
    exact ⟨t, (iterate_succ hstep).trans hrun, hreceived.cons hgives hafter⟩

/-- A receive shuttle whose range reaches above the guard faults at the first store there (20_memory.md R67). -/
theorem iterate_shuttleRx_overrun {base : Nat} {n k0 : Count} {m : Nat} {s : State} {rem : Count}
    (hrem : rem = if s.rxOpen then s.rxRem else n) (hm : rem.toNat = m + 1) (hle : rem.toNat ≤ n.toNat)
    (hover : s.cfg.rxCap + 1 < base + n.toNat) (hx : s.xReq = false) (hgive : s.env.canGive (m + 1)) :
    iterate (exec (.shuttleRx base n k0)) (m + 1) s = .fault .rxOverrun := by
  induction m generalizing s rem with
  | zero =>
    obtain ⟨r, rest, ha, _⟩ := Env.canGive_succ hgive
    have hi : s.cfg.rxCap < base + cursor n rem := by unfold cursor; omega
    exact iterate_fault (shuttleRx_overrun hrem (count_ne_zero hm) ha hi)
  | succ m ih =>
    obtain ⟨r, rest, ha, hgive', _⟩ := Env.canGive_succ hgive
    by_cases hi : base + cursor n rem ≤ s.cfg.rxCap
    · rw [iterate_succ (shuttleRx_prompt hrem (count_ne_zero hm) hx ha hi)]
      exact ih (rem := rem - 1) (if_pos (receiveByte_open hm _ _ _ _ _)).symm (count_pred hm)
        (by rw [count_pred hm]; omega) hover hx hgive'
    · exact iterate_fault (shuttleRx_overrun hrem (count_ne_zero hm) ha (Nat.lt_of_not_le hi))

/-! ### The bytes of a received range -/

theorem bytesFrom_store (s : State) (sp : Space) (i : Nat) (bs : List Byte) :
    (s.store sp i bs).bytesFrom sp i bs.length = bs := by
  refine List.ext_getElem (by simp [State.bytesFrom]) fun k _ hk => ?_
  simp only [State.bytesFrom, List.getElem_map, List.getElem_range, bufByte_store]
  rw [if_pos ⟨Nat.le_add_right i k, Nat.add_lt_add_left hk i⟩, Nat.add_sub_cancel_left]
  rw [List.getD_eq_getElem?_getD, List.getElem?_eq_getElem hk, Option.getD_some]

section
variable {k i m : Nat} {s t : State} (h : ReceivedRange k i m s t)
include h

/-- The bytes of RX are those of one store of all the answers. -/
theorem ReceivedRange.bufByte_rx (j : Nat) : t.bufByte .rx j = (s.store .rx i (s.env.gives m)).bufByte .rx j := by
  have hepoch : t.epoch = s.epoch := by rw [h.frame]
  simp only [State.bufByte, mem_rx, h.stored, hepoch, store_rx_rx, store_epoch]

theorem ReceivedRange.bytesFrom_rx : t.bytesFrom .rx i m = s.env.gives m := by
  have hstore := bytesFrom_store s .rx i (s.env.gives m)
  rw [Env.gives_length] at hstore
  rw [← hstore]
  simp only [State.bytesFrom, h.bufByte_rx]

theorem ReceivedRange.bufByte_outside {j : Nat} (hj : j < i ∨ i + m ≤ j) : t.bufByte .rx j = s.bufByte .rx j := by
  rw [h.bufByte_rx, bufByte_store, if_neg (by rw [Env.gives_length]; omega)]

theorem ReceivedRange.sameTx : sameBytes .tx s t := fun j => by rw [h.frame]; rfl

end

/-- Settles O19: the induction over the count, for `exec` as what issues the shuttle. -/
theorem shuttleRxStoresRange : Obligations.ShuttleRxStoresRange := by
  intro s base n k0 hn hclosed hx hgive
  obtain ⟨m, hm⟩ := exists_count_succ hn
  rw [← iterate_exec]
  have hrem : n = if s.rxOpen then s.rxRem else n := by simp [hclosed]
  refine ⟨fun hfit => ?_, fun hover => ?_⟩
  · rw [hm] at hgive ⊢
    obtain ⟨t, hrun, hreceived⟩ := iterate_shuttleRx (F := exec (.shuttleRx base n k0)) (f := id)
      (At := fun _ => True) (fun u _ => (whenDone_id _ _).symm) (fun _ _ _ _ _ _ h => h) trivial hrem hm
      (Nat.le_refl _) hfit hx hgive
    rw [cursor_self] at hreceived
    exact ⟨t, hrun, hreceived.trace, hreceived.bytesFrom_rx, fun j => hreceived.bufByte_outside, hreceived.sameTx,
      hreceived.frame.trans (by rw [← hclosed])⟩
  · rw [hm] at hgive ⊢
    exact iterate_shuttleRx_overrun hrem hm (Nat.le_refl _) hover hx hgive

end Sys2Proof.Machine
end

section
/-! A frame that reaches the receive guard (O47). The read path of 43_transport_read.md is cut into its parts: entry,
header, decode, payload, and the comparison at its end. -/

namespace Sys2Proof.Machine

/-! ## What the engine gives to two shuttles in turn -/

section
variable {e : Env} {m n : Nat}

theorem Env.canGive_left (h : e.canGive (m + n)) : e.canGive m := h.imp_left fun hlen => by omega

theorem Env.canGive_right (h : e.canGive (m + n)) : (e.afterGiving m).canGive n :=
  h.imp_left fun hlen => by simp only [Env.afterGiving, List.length_drop]; omega

theorem Env.gives_add : e.gives (m + n) = e.gives m ++ (e.afterGiving m).gives n := by
  rcases Nat.le_total m e.replies.length with hm | hm
  · have h0 : m - e.replies.length = 0 := by omega
    have h1 : m + n - e.replies.length = n - (e.replies.length - m) := by omega
    simp [Env.gives, Env.afterGiving, h0, h1, List.take_add]
  · have h0 : e.replies.length ≤ m + n := by omega
    have h1 : m + n - e.replies.length = m - e.replies.length + n := by omega
    simp [Env.gives, Env.afterGiving, List.take_of_length_le, List.drop_of_length_le, hm, h0, h1]

theorem Env.gives_after : (e.afterGiving m).gives n = (e.gives (m + n)).drop m := by
  have hlen : (e.gives m).length = m := Env.gives_length
  rw [Env.gives_add, List.drop_left' hlen]

end

/-! ## What a received range leaves -/

section
variable {k i m : Nat} {s t : State} (h : ReceivedRange k i m s t)
include h

theorem ReceivedRange.alone (hs : runsAlone s) : runsAlone t := by
  obtain ⟨hscript, hbus, hrun⟩ := hs
  exact ⟨(congrArg (fun u : State => u.env.script) h.frame).trans hscript, (congrArg State.uop h.frame).trans hbus,
    (congrArg State.halted h.frame).trans hrun⟩

theorem ReceivedRange.low (hs : requestsLow s) : requestsLow t := by
  obtain ⟨hx, hd, hv, ht, _⟩ := hs
  exact ⟨(congrArg State.xReq h.frame).trans hx, (congrArg State.dReq h.frame).trans hd,
    (congrArg State.sValid h.frame).trans hv, (congrArg State.txOpen h.frame).trans ht, congrArg State.rxOpen h.frame⟩

theorem ReceivedRange.cfg_eq : t.cfg = s.cfg := by rw [h.frame]

theorem ReceivedRange.env_eq : t.env = s.env.afterGiving m := congrArg State.env h.frame

end

/-- Where the last index of the range is the guard's, the last byte received stands there. -/
theorem ReceivedRange.getLast_gives {k i m : Nat} {s t : State} (h : ReceivedRange k i (m + 1) s t)
    (hcap : s.cfg.rxCap = i + m) : (s.env.gives (m + 1)).getLast? = some (t.guardByte .rx) := by
  have hguard : t.guardByte .rx = t.bufByte .rx (i + m) := by rw [State.guardByte, cap_rx, h.cfg_eq, hcap]
  rw [← h.bytesFrom_rx, hguard]
  simp [State.bytesFrom, List.range_succ]

theorem rxHeader_eq (s : State) : s.rxHeader = s.bytesFrom .rx 0 10 := by
  simp only [State.rxHeader, State.bytesFrom, Nat.zero_add]

/-! ## The micro-steps of the read path, HDST alone -/

/-- HDST alone with I at a label. -/
structure PathAt (l : ILabel) (s : State) : Prop where
  alone : runsAlone s
  ipc : s.ipc = l

section
variable {s : State}

theorem PathAt.step_eq {l : ILabel} (h : PathAt l s) (hl : l ≠ .rest) : step s = iStep s := by
  obtain ⟨⟨hscript, hbus, hrun⟩, hi⟩ := h
  rw [step_alone hscript, seqStep_irqPath hrun hbus (hi ▸ hl)]

theorem step_irqStart (h : PathAt .rest s) (hpend : s.irqPend = true) (hw : inhibited s.wpc = false) :
    step s = .next (irqEnter s) := by
  obtain ⟨⟨hscript, hbus, hrun⟩, hi⟩ := h
  rw [step_alone hscript]
  exact seqStep_irqStart hbus (by simp [State.irqStart, hpend, hi, hrun, hw])

theorem step_take_idle (h : PathAt .take s) (hst : s.state = .idle) :
    step s = .next (goI .rd1 (takeEdge s)) := by
  rw [step_take h.alone h.ipc, hst]
  rfl

/-- A comparison that passes moves to the next label. -/
theorem whenDone_checkGuard {sp : Space} {f : State → State} (site : Site) (hs : runsAlone s)
    (hguard : s.guardByte sp = s.cfg.sentinel) :
    whenDone guardPassed f (execCheckGuard sp site s) = .next (f s) := by
  obtain ⟨_, _, hrun⟩ := hs
  simp [execCheckGuard, checkGuard_pass site hguard, guardPassed, hrun]

/-- A comparison that fails halts the block where it stands (60_exceptions.md R221). -/
theorem whenDone_checkGuard_corrupt {sp : Space} {f : State → State} (site : Site)
    (hguard : s.guardByte sp ≠ s.cfg.sentinel) :
    whenDone guardPassed f (execCheckGuard sp site s) = .next (raiseCorruption site s) := by
  simp [execCheckGuard, checkGuard, guardOk, hguard, guardPassed]

theorem step_rd1 (h : PathAt .rd1 s) (hguard : s.guardByte .rx = s.cfg.sentinel) :
    step s = .next (goI .rd2 s) := by
  rw [h.step_eq nofun]
  simp only [iStep, h.ipc]
  exact whenDone_checkGuard .ckRb h.alone hguard

theorem step_rd2 (h : PathAt .rd2 s) :
    step s = .next (goI .rd3 (csAssert (setState .readIrq s))) := by
  rw [h.step_eq nofun]
  simp only [iStep, h.ipc]
  rfl

theorem step_rd4 (h : PathAt .rd4 s) : step s = .next (goI .rd5 (setState .readEot s)) := by
  rw [h.step_eq nofun]
  simp only [iStep, h.ipc]
  rfl

theorem step_rd5 {kind : FrameKind} {len : Half} {n : Count} (h : PathAt .rd5 s)
    (hdec : decodeHeader s.cfg s.rxHeader = some (kind, len, n)) :
    step s = .next (goI .rd6 (setDecoded kind len n s)) := by
  rw [h.step_eq nofun]
  simp only [iStep, h.ipc, execDecodeHdr, hdec]
  rfl

theorem step_rd7_corrupt (h : PathAt .rd7 s) (hguard : s.guardByte .rx ≠ s.cfg.sentinel) :
    step s = .next (raiseCorruption .ckRe s) := by
  rw [h.step_eq nofun]
  simp only [iStep, h.ipc]
  exact whenDone_checkGuard_corrupt .ckRe hguard

/-- I_RD3 reads the ten header bytes to the start of RX (43_transport_read.md R195). -/
theorem run_readHeader (hs : PathAt .rd3 s) (hlow : requestsLow s) (hcap : 10 ≤ s.cfg.rxCap + 1)
    (hgive : s.env.canGive 10) : ∃ t, runSteps 10 s = .next (goI .rd4 t) ∧ ReceivedRange 0 0 10 s t := by
  obtain ⟨hx, _, _, _, hclosed⟩ := hlow
  rw [← iterate_step]
  exact iterate_shuttleRx (F := step) (f := goI .rd4) (At := PathAt .rd3) (base := 0) (n := 10)
    (k0 := 0) (m := 9) (rem := 10) (fun u hu => by rw [hu.step_eq nofun]; simp only [iStep, hu.ipc]; rfl)
    (fun _ _ _ _ _ _ hu => ⟨hu.alone, hu.ipc⟩) hs (by simp [hclosed]) rfl (Nat.le_refl _)
    (by simpa using hcap) hx hgive

/-- I_RD6 reads the `rx_n` payload bytes behind the header (R200). -/
theorem run_readPayload {m : Nat} (hs : PathAt .rd6 s) (hlow : requestsLow s) (hm : s.rxN.toNat = m + 1)
    (hcap : 10 + (m + 1) ≤ s.cfg.rxCap + 1) (hgive : s.env.canGive (m + 1)) :
    ∃ t, runSteps (m + 1) s = .next (goI .rd7 t) ∧ ReceivedRange 10 10 (m + 1) s t := by
  obtain ⟨hx, _, _, _, hclosed⟩ := hlow
  obtain ⟨t, hrun, hreceived⟩ := iterate_shuttleRx (F := step) (f := goI .rd7)
    (At := fun u => PathAt .rd6 u ∧ u.rxN = s.rxN) (base := 10) (n := s.rxN) (k0 := 10) (rem := s.rxN)
    (fun u hu => by rw [hu.1.step_eq nofun]; simp only [iStep, hu.1.ipc, hu.2]; rfl)
    (fun _ _ _ _ _ _ hu => ⟨⟨hu.1.alone, hu.1.ipc⟩, hu.2⟩) ⟨hs, rfl⟩ (by simp [hclosed]) hm (Nat.le_refl _)
    (hm ▸ hcap) hx hgive
  rw [cursor_self] at hreceived
  rw [← iterate_step]
  exact ⟨t, hrun, hreceived⟩

end

/-! ## From the edge to the payload -/

/-- The state in which the header of a frame is read: the edge is taken, chip-select asserted, `state = ReadIrq`. -/
def headerState (s : State) : State :=
  { s with irqPend := false, ipc := .rd3, state := .readIrq, cs := true, trace := .csUp :: .st .readIrq :: s.trace }

theorem headerState_eq {s : State} (hcs : s.cs = false) :
    goI .rd3 (csAssert (setState .readIrq (goI .rd2 (goI .rd1 (takeEdge (irqEnter s)))))) = headerState s := by
  simp [csAssert_eq, headerState, goI, setState, emit, takeEdge, irqEnter, hcs]

/-- A pending edge starts the reading of a frame: HDST is alone and Idle, I at rest, the receive guard good. -/
structure ReadStarts (s : State) : Prop where
  alone : runsAlone s
  ipc : s.ipc = .rest
  pend : s.irqPend = true
  wpc : inhibited s.wpc = false
  state : s.state = .idle
  cs : s.cs = false
  guard : s.guardByte .rx = s.cfg.sentinel

/-- From the pending edge to the header: the start of I, I_TAKE, I_RD1 and I_RD2 (R190 to R194). -/
theorem run_readEntry {s : State} (h : ReadStarts s) : runSteps 4 s = .next (headerState s) := by
  have hstart := step_irqStart ⟨h.alone, h.ipc⟩ h.pend h.wpc
  have htake := step_take_idle (s := irqEnter s) ⟨h.alone, rfl⟩ h.state
  have hcheck := step_rd1 (s := goI .rd1 (takeEdge (irqEnter s))) ⟨h.alone, rfl⟩ h.guard
  have hselect := step_rd2 (s := goI .rd2 (goI .rd1 (takeEdge (irqEnter s)))) ⟨h.alone, rfl⟩
  rw [runSteps_succ hstart, runSteps_succ htake, runSteps_succ hcheck, runSteps_succ hselect]
  exact congrArg Host.Outcome.next (headerState_eq h.cs)

/-- From a header that decodes to the payload: I_RD4 and I_RD5 (R196 to R199). -/
theorem run_readDecode {s : State} {kind : FrameKind} {len : Half} {n : Count} (hs : PathAt .rd4 s)
    (hdec : decodeHeader s.cfg s.rxHeader = some (kind, len, n)) :
    runSteps 2 s = .next (goI .rd6 (setDecoded kind len n (goI .rd5 (setState .readEot s)))) := by
  have heot := step_rd4 hs
  have hdecoded := step_rd5 (s := goI .rd5 (setState .readEot s)) ⟨hs.alone, rfl⟩ hdec
  rw [runSteps_succ heot, runSteps_succ hdecoded]
  rfl

/-- The state in which the payload of a frame is read: the header is decoded, `state = ReadEot`. -/
def payloadState (kind : FrameKind) (len : Half) (n : Count) (s : State) : State :=
  goI .rd6 (setDecoded kind len n (goI .rd5 (setState .readEot (goI .rd4 s))))

/-- From a pending edge to the comparison at I_RD7, for a frame within RX: t stands after the header, u after the
payload. -/
theorem run_readFrame {s : State} {kind : FrameKind} {len : Half} {n : Count} {m : Nat} (h : ReadStarts s)
    (hlow : requestsLow s) (hgive : s.env.canGive (10 + (m + 1)))
    (hdec : decodeHeader s.cfg (s.env.gives 10) = some (kind, len, n)) (hm : n.toNat = m + 1)
    (hcap : 10 + (m + 1) ≤ s.cfg.rxCap + 1) :
    ∃ t u, runSteps (4 + (10 + (2 + (m + 1)))) s = .next (goI .rd7 u) ∧ ReceivedRange 0 0 10 (headerState s) t ∧
      ReceivedRange 10 10 (m + 1) (payloadState kind len n t) u := by
  have hentry := run_readEntry h
  obtain ⟨t, hheader, ht⟩ := run_readHeader (s := headerState s) ⟨h.alone, rfl⟩ hlow
    (show 10 ≤ s.cfg.rxCap + 1 by omega) (Env.canGive_left hgive)
  have hcfg : t.cfg = s.cfg := ht.cfg_eq
  have halone : runsAlone t := ht.alone h.alone
  have hheaderBytes : (goI .rd4 t).rxHeader = s.env.gives 10 := (rxHeader_eq _).trans ht.bytesFrom_rx
  have hdecode := run_readDecode (s := goI .rd4 t) (kind := kind) (len := len) (n := n) ⟨halone, rfl⟩
    (by rw [hheaderBytes, goI_cfg, hcfg, hdec])
  obtain ⟨u, hpayload, hu⟩ := run_readPayload (s := payloadState kind len n t) ⟨halone, rfl⟩ (ht.low hlow) hm
    (show 10 + (m + 1) ≤ t.cfg.rxCap + 1 by rw [hcfg]; exact hcap)
    (show t.env.canGive (m + 1) by rw [ht.env_eq]; exact Env.canGive_right hgive)
  refine ⟨t, u, ?_, ht, hu⟩
  rw [runSteps_add hentry, runSteps_add hheader, runSteps_add hdecode]
  exact hpayload

section
variable {s t u : State} {kind : FrameKind} {len : Half} {n : Count} {m : Nat}
  (ht : ReceivedRange 0 0 10 (headerState s) t) (hu : ReceivedRange 10 10 m (payloadState kind len n t) u)
include ht hu

/-- The trace of a frame read up to its last byte (R193 to R200). -/
theorem readFrame_trace : u.trace =
    exchanges (readingBytes s.cfg 10 m) ((s.env.gives (10 + m)).drop 10) ++ [.st .readEot] ++
      exchanges (readingBytes s.cfg 0 10) (s.env.gives 10) ++ [.csUp, .st .readIrq] ++ s.trace := by
  have hcfg : (payloadState kind len n t).cfg = s.cfg := ht.cfg_eq
  have henv : (payloadState kind len n t).env = s.env.afterGiving 10 := ht.env_eq
  have htrace : (payloadState kind len n t).trace = .st .readEot :: t.trace := rfl
  rw [hu.trace, hcfg, henv, htrace, ht.trace, Env.gives_after]
  simp only [List.append_assoc, List.cons_append, List.nil_append]
  rfl

theorem readFrame_cs : u.cs = true := by
  rw [hu.frame]
  exact (congrArg State.cs ht.frame :)

end

/-- Settles O47: the last byte of the payload stands at the guard, so the comparison at I_RD7 fails. -/
theorem overrunIsCaught : Obligations.OverrunIsCaught := by
  intro s kind len n halone hlow hpend hi hw hst hcs hguard hwf hgive hdec hreach hlast
  obtain ⟨m, hm⟩ : ∃ m, n.toNat = m + 1 := ⟨n.toNat - 1, by have := (cap_ge_of_wf hwf).2; omega⟩
  rw [hm] at hgive hlast hreach ⊢
  obtain ⟨t, u, hrun, ht, hu⟩ := run_readFrame ⟨halone, hi, hpend, hw, hst, hcs, hguard⟩ hlow hgive hdec hm
    (Nat.le_of_eq hreach)
  have hcfg : u.cfg = s.cfg := hu.cfg_eq.trans ht.cfg_eq
  have henv : (payloadState kind len n t).env = s.env.afterGiving 10 := ht.env_eq
  have hcap : (payloadState kind len n t).cfg.rxCap = 10 + m := by
    rw [show (payloadState kind len n t).cfg = s.cfg from ht.cfg_eq]
    omega
  have hguardByte : (s.env.gives (10 + (m + 1))).getLast? = some (u.guardByte .rx) := by
    rw [Env.gives_add, ← henv, List.getLast?_append, hu.getLast_gives hcap, Option.some_or]
  have hbad : u.guardByte .rx ≠ s.cfg.sentinel := fun hgood => hlast (hguardByte.trans (congrArg some hgood))
  have hhalt := step_rd7_corrupt (s := goI .rd7 u) ⟨hu.alone (ht.alone halone), rfl⟩ (hcfg ▸ hbad)
  have htrace := readFrame_trace ht hu
  have hselected : u.cs = true := readFrame_cs ht hu
  have hstate : u.state = .readEot := by rw [hu.frame]; rfl
  obtain ⟨_, _, hundelivered, _⟩ := hu.low (ht.low hlow)
  refine ⟨raiseCorruption .ckRe (goI .rd7 u), ?_, rfl, hselected, hstate, rfl, hundelivered, hbad, ?_⟩
  · rw [show 17 + (m + 1) = 4 + (10 + (2 + (m + 1))) + 1 by omega, runSteps_add hrun, runSteps_succ hhalt]
    rfl
  · exact congrArg (Event.halt .ckRe :: ·) htrace

end Sys2Proof.Machine
end

section
/-! What a step leaves on the wire and in the buffers (O54, O57): which moves exchange a byte, and which bytes each
move can change. -/

namespace Sys2Proof.Machine

/-! ## Moves that neither exchange nor store -/

/-- The event of an exchange. -/
def isExchange : Event → Bool
  | .exchange _ _ => true
  | _ => false

/-- The exchanges that a trace records. -/
def exchangesIn (trace : List Event) : List Event := trace.filter isExchange

/-- No exchange is made and no byte of a buffer is written. -/
structure Quiet (s t : State) : Prop where
  tx : t.tx = s.tx := by rfl
  rx : t.rx = s.rx := by rfl
  epoch : t.epoch = s.epoch := by rfl
  exchanges : exchangesIn t.trace = exchangesIn s.trace := by rfl

theorem Quiet.refl (s : State) : Quiet s s := {}

theorem Quiet.trans {s t u : State} (hst : Quiet s t) (htu : Quiet t u) : Quiet s u where
  tx := htu.tx.trans hst.tx
  rx := htu.rx.trans hst.rx
  epoch := htu.epoch.trans hst.epoch
  exchanges := htu.exchanges.trans hst.exchanges

theorem exchangesIn_ite (c : Bool) {e : Event} (he : isExchange e = false) (l : List Event) :
    exchangesIn (if c then l else e :: l) = exchangesIn l := by
  cases c
  · exact List.filter_cons_of_neg (by simp [he])
  · rfl

theorem setState_quiet (v : TransportState) (s : State) : Quiet s (setState v s) := {}
theorem goW_quiet (l : WLabel) (s : State) : Quiet s (goW l s) := {}
theorem goI_quiet (l : ILabel) (s : State) : Quiet s (goI l s) := {}
theorem sampleLevel_quiet (s : State) : Quiet s (sampleLevel s) := {}
theorem acceptWrite_quiet (len : Half) (s : State) : Quiet s (acceptWrite len s) := {}
theorem dropItem_quiet (s : State) : Quiet s (dropItem s) := {}

theorem csAssert_quiet (s : State) : Quiet s (csAssert s) := by
  rw [csAssert_eq]
  exact { exchanges := exchangesIn_ite s.cs rfl _ }

theorem csDeassert_quiet (s : State) : Quiet s (csDeassert s) := by
  unfold csDeassert
  split <;> exact {}

theorem delayUs_quiet (n : Half) (s : State) : Quiet s (delayUs n s) := by
  rw [delayUs_cases]
  exact { exchanges := exchangesIn_ite s.dReq rfl _ }

theorem deliver_quiet (ptr : Nat) (len : Half) (s : State) : Quiet s (deliver ptr len s) := by
  rw [deliver_cases]
  exact { exchanges := exchangesIn_ite s.sValid rfl _ }

theorem checkGuard_quiet (sp : Space) (site : Site) (s : State) : Quiet s (checkGuard sp site s) := by
  unfold checkGuard
  split <;> exact {}

theorem clockEdges_quiet (level : Bool) (n : Nat) (s : State) : Quiet s (clockEdges level n s) := by
  rw [clockEdges_frame]
  exact {}

theorem lineEdge_quiet (s : State) : Quiet s (lineTo true (lineTo false s)) :=
  (clockEdges_quiet false _ s).trans (clockEdges_quiet true _ (lineTo false s))

theorem hostCommand_quiet {cmd : BitVec 2} {len : Half} {effect : State → State} (he : ∀ u, Quiet u (effect u))
    (s : State) : Quiet s (hostCommand cmd len effect s) := by
  cases hr : s.cmdReady with
  | true => rw [hostCommand_ready hr]; exact Quiet.trans {} (he (withdraw s))
  | false => rw [hostCommand_held hr]; exact {}

/-- The operations that neither exchange nor store. -/
def quietOp : Instr → Bool
  | .init | .xchg _ | .buildHdr _ | .shuttleTx _ _ | .shuttleRx _ _ _ => false
  | .wrframe _ _ _ | .rdframeData _ | .rdframeEvent _ | .rdframeOther _ | .write _ _ => false
  | _ => true

theorem exec_quiet {i : Instr} (hi : quietOp i = true) (s : State) : Ensures (Quiet s) (exec i s) := by
  cases i with
  | nocmd => exact {}
  | submitWrite len => exact hostCommand_quiet (acceptWrite_quiet len) s
  | cmdReserved => exact hostCommand_quiet Quiet.refl s
  | onIrqPowerup | onIrqOther _ | onIrqIdle | onIrqWriteirq => exact {}
  | csAssert => exact csAssert_quiet s
  | csDeassert => exact csDeassert_quiet s
  | delayUs n => exact delayUs_quiet n s
  | irqEn | irqDis | irqLvl | uopNone => exact {}
  | deliver ptr len => exact deliver_quiet ptr len s
  | checkGuard sp site => exact checkGuard_quiet sp site s
  | decodeHdr =>
    simp only [exec, execDecodeHdr]
    split
    · exact {}
    · trivial
  | edge => exact lineEdge_quiet s
  | frameIn bytes => exact Quiet.trans (t := addReplies bytes s) {} (lineEdge_quiet _)
  | _ => cases hi

theorem decodeIrq_quiet (code : BitVec 4) : quietOp (decodeIrq code) = true := by
  unfold decodeIrq
  split <;> rfl

theorem andThen_quiet {s : State} {i : Instr} {f : State → State} (hi : quietOp i = true)
    (hf : ∀ u, Quiet u (f u)) : Ensures (Quiet s) (andThen f (exec i s)) :=
  (exec_quiet hi s).andThen fun u hu => hu.trans (hf u)

theorem whenDone_quiet {s : State} {i : Instr} {done : State → Bool} {f : State → State} (hi : quietOp i = true)
    (hf : ∀ u, Quiet u (f u)) : Ensures (Quiet s) (whenDone done f (exec i s)) :=
  (exec_quiet hi s).whenDone (fun u hu _ => hu.trans (hf u)) fun _ hu _ => hu

/-- The labels of W whose micro-step neither exchanges nor stores. -/
def quietW : WLabel → Bool
  | .init | .hdr | .wu3 | .wu5 | .il1 => false
  | _ => true

theorem finish_quiet (l : WLabel) (s : State) : Quiet s (goW l (setState .idle s)) := {}

theorem wStep_quiet {s : State} (h : quietW s.wpc = true) : Ensures (Quiet s) (wStep s) := by
  cases hw : s.wpc with
  | init | hdr | wu3 | wu5 | il1 => rw [hw] at h; cases h
  | rest | acc | br | cr2 => simp only [wStep, hw]; exact {}
  | ckb => simp only [wStep, hw]; exact whenDone_quiet (i := .checkGuard .tx .ckWb) rfl (goW_quiet .hdr)
  | wu1 => simp only [wStep, hw]; exact andThen_quiet (i := .csAssert) rfl (goW_quiet .wu2)
  | wu2 => simp only [wStep, hw]; exact whenDone_quiet (i := .delayUs s.cfg.tWarm) rfl (goW_quiet .wu3)
  | wu4 => simp only [wStep, hw]; exact whenDone_quiet (i := .delayUs s.cfg.tWarm) rfl (goW_quiet .wu5)
  | wu6 => simp only [wStep, hw]; exact whenDone_quiet (i := .checkGuard .tx .ckWe) rfl (goW_quiet .wu7)
  | wu7 => simp only [wStep, hw]; exact andThen_quiet (i := .csDeassert) rfl (finish_quiet .fin)
  | spin => simp only [wStep, hw]; split <;> exact {}
  | cr1 => simp only [wStep, hw]; exact andThen_quiet (i := .irqDis) rfl (goW_quiet .cr2)
  | cr3 => simp only [wStep, hw]; exact andThen_quiet (i := .csAssert) rfl (goW_quiet .cr4)
  | cr4 => simp only [wStep, hw]; exact andThen_quiet (i := .irqEn) rfl sampleLevel_quiet
  | il2 => simp only [wStep, hw]; exact whenDone_quiet (i := .checkGuard .tx .ckWe) rfl (goW_quiet .il3)
  | il3 =>
    simp only [wStep, hw]
    exact (setState_quiet .idle s).trans ((csDeassert_quiet _).trans (goW_quiet .fin _))
  | fin => simp only [wStep, hw]; split <;> exact {}

/-- The labels of I whose micro-step neither exchanges nor stores. -/
def quietI : ILabel → Bool
  | .rd3 | .rd6 | .wr1 => false
  | _ => true

theorem iStep_quiet {s : State} (h : quietI s.ipc = true) : Ensures (Quiet s) (iStep s) := by
  cases hi : s.ipc with
  | rd3 | rd6 | wr1 => rw [hi] at h; cases h
  | rest => simp only [iStep, hi]; exact {}
  | take => simp only [iStep, hi]; exact exec_quiet (decodeIrq_quiet _) s
  | rd1 => simp only [iStep, hi]; exact whenDone_quiet (i := .checkGuard .rx .ckRb) rfl (goI_quiet .rd2)
  | rd2 =>
    simp only [iStep, hi]
    exact (setState_quiet .readIrq s).trans ((csAssert_quiet _).trans (goI_quiet .rd3 _))
  | rd4 => simp only [iStep, hi]; exact {}
  | rd5 => simp only [iStep, hi]; exact andThen_quiet (i := .decodeHdr) rfl (goI_quiet .rd6)
  | rd7 => simp only [iStep, hi]; exact whenDone_quiet (i := .checkGuard .rx .ckRe) rfl (goI_quiet .rd8)
  | rd8 =>
    simp only [iStep, hi]
    exact (csDeassert_quiet s).trans ((setState_quiet .idle _).trans (goI_quiet .rd9 _))
  | rd9 => simp only [iStep, hi]; exact whenDone_quiet (i := .deliver 10 s.rxLen) rfl (goI_quiet .rest)
  | wr2 => simp only [iStep, hi]; exact whenDone_quiet (i := .checkGuard .tx .ckWe) rfl (goI_quiet .wr3)
  | wr3 =>
    simp only [iStep, hi]
    exact (setState_quiet .idle s).trans ((csDeassert_quiet _).trans (goI_quiet .rest _))

/-! ## The footprint of a move -/

/-- A move makes no exchange, or one with chip-select asserted before and after it, which is all it records; and it
changes bytes of TX and RX only at the named indices. -/
structure Footprint (tx rx : Nat → Prop) (s t : State) : Prop where
  exchanges : exchangesIn t.trace = exchangesIn s.trace ∨
    (s.cs = true ∧ t.cs = true ∧ ∃ out inp, t.trace = .exchange out inp :: s.trace)
  txBytes : ∀ j, t.bufByte .tx j ≠ s.bufByte .tx j → tx j
  rxBytes : ∀ j, t.bufByte .rx j ≠ s.bufByte .rx j → rx j

section
variable {tx rx tx' rx' : Nat → Prop} {s t : State}

theorem Footprint.mono (h : Footprint tx rx s t) (htx : ∀ j, tx j → tx' j) (hrx : ∀ j, rx j → rx' j) :
    Footprint tx' rx' s t :=
  ⟨h.exchanges, fun j hj => htx j (h.txBytes j hj), fun j hj => hrx j (h.rxBytes j hj)⟩

theorem Footprint.goW (l : WLabel) (h : Footprint tx rx s t) : Footprint tx rx s (goW l t) :=
  ⟨h.exchanges, h.txBytes, h.rxBytes⟩

theorem Footprint.goI (l : ILabel) (h : Footprint tx rx s t) : Footprint tx rx s (goI l t) :=
  ⟨h.exchanges, h.txBytes, h.rxBytes⟩

theorem Quiet.footprint (h : Quiet s t) : Footprint tx rx s t := by
  obtain ⟨htx, hrx, hepoch, hexchanges⟩ := h
  refine ⟨.inl hexchanges, fun j hj => absurd ?_ hj, fun j hj => absurd ?_ hj⟩
  · simp only [State.bufByte, mem_tx, htx, hepoch]
  · simp only [State.bufByte, mem_rx, hrx, hepoch]

/-- A store to TX, at the indices of its bytes. -/
theorem store_tx_footprint (s : State) (i : Nat) (bs : List Byte) :
    Footprint (fun j => i ≤ j ∧ j < i + bs.length) (fun _ => False) s (s.store .tx i bs) := by
  refine ⟨.inl rfl, fun j hj => ?_, fun j hj => absurd rfl hj⟩
  rw [bufByte_store] at hj
  exact Decidable.byContradiction fun hout => hj (if_neg hout)

end

end Sys2Proof.Machine
end

section
/-! The footprint of each move of HDST and of each step (O54, O57). -/

namespace Sys2Proof.Machine

section
variable {tx rx : Nat → Prop} {s : State}

/-! ## The moves that store or exchange -/

/-- Only the byte written can differ. -/
theorem index_of_write {t : State} {sp : Space} {i j : Nat} {v : Byte} (hj : t.bufByte sp j ≠ s.bufByte sp j)
    (hmem : t.mem sp = (s.mem sp).write i v) (hepoch : t.epoch = s.epoch) : j = i := by
  rw [bufByte_write hmem hepoch] at hj
  exact Decidable.byContradiction fun hne => hj (if_neg hne)

/-- INIT stores the two guards (42_transport_write.md R161). -/
theorem initStep_footprint (s : State) : Footprint (· = s.cfg.txCap) (· = s.cfg.rxCap) s (initStep s) := by
  rw [initStep_eq]
  exact ⟨.inl rfl, fun _ hj => index_of_write hj rfl rfl, fun _ hj => index_of_write hj rfl rfl⟩

/-- BUILD_HDR writes the five header bytes (R165). -/
theorem buildHdr_footprint (len : Half) (s : State) :
    Ensures (Footprint (· < 5) (fun _ => False) s) (exec (.buildHdr len) s) := by
  have hstore := store_tx_footprint { s with pad := writePad len, txTot := writeTotal len } 0 (writeHeader s.cfg len)
  have hmono := hstore.mono (tx' := (· < 5)) (fun j hj => by simpa [writeHeader, headerBytes] using hj) fun _ => id
  exact ⟨hmono.exchanges, hmono.txBytes, hmono.rxBytes⟩

/-- A transmit shuttle stores nothing. -/
theorem shuttleTx_footprint (base : Nat) (n : Count) (hcs : s.cs = true) :
    Footprint tx rx s (shuttleTx base n s) := by
  rcases shuttleTx_cases base n s with ⟨_, ht⟩ | ⟨_, _, ht⟩ | ⟨r, rest, _, _, ht⟩ <;> rw [ht, loadTx_eq]
  · exact Quiet.footprint {}
  · rw [raiseFromTx_eq]
    exact Quiet.footprint {}
  · rw [raiseFromTx_eq]
    exact ⟨.inr ⟨hcs, hcs, _, r, rfl⟩, fun _ hj => absurd rfl hj, fun _ hj => absurd rfl hj⟩

/-- A receive shuttle stores at a position before its last. -/
theorem shuttleRx_footprint (base : Nat) (n k0 : Count) (hcs : s.cs = true) :
    Ensures (Footprint (fun _ => False) (fun j => ∃ rem : Count, rem ≠ 0 ∧ j = base + cursor n rem) s)
      (shuttleRx base n k0 s) := by
  obtain ⟨rem, hrem⟩ : ∃ rem : Count, rem = if s.rxOpen then s.rxRem else n := ⟨_, rfl⟩
  by_cases h0 : rem = 0
  · rw [shuttleRx_done hrem h0]
    exact Quiet.footprint {}
  · cases ha : s.env.answer? with
    | none =>
      rw [shuttleRx_wait hrem h0 ha, xchg_wait (s := { s with rxOpen := true, rxRem := rem }) ha]
      exact Quiet.footprint {}
    | some a =>
      by_cases hi : base + cursor n rem ≤ s.cfg.rxCap
      · rw [shuttleRx_ack (r := a.1) (rest := a.2) hrem h0 ha hi]
        exact ⟨.inr ⟨hcs, hcs, _, a.1, rfl⟩, fun _ hj => absurd rfl hj,
          fun _ hj => ⟨rem, h0, index_of_write hj rfl rfl⟩⟩
      · rw [shuttleRx_overrun (r := a.1) (rest := a.2) hrem h0 ha (Nat.lt_of_not_le hi)]
        trivial

/-! ## Where a shuttle can move, chip-select is asserted (40_bus_driver.md R123) -/

theorem Control.cs_of_txSite (h : Control s) (hs : txSite s.ipc s.wpc = true) : s.cs = true := by
  have hcaller : ∀ {l}, s.wpc = l → callerPhase l s.state = true → txSite .rest l = true → s.cs = true := by
    intro l hw hphase hsite
    rw [h.cs, csExpected_eq, hw]
    have hl : (l = .wu3 ∨ l = .wu5) ∨ l = .il1 := by simpa [txSite] using hsite
    rcases hl with (rfl | rfl) | rfl
    · exact Bool.or_true _
    · exact Bool.or_true _
    · rw [of_decide_eq_true hphase]
      rfl
  cases hi : s.ipc with
  | rest => exact hcaller rfl (h.caller hi rfl).phase (hi ▸ hs)
  | take =>
    have hphase : callerPhase s.wpc s.state = true ∧ inhibited s.wpc = false := by simpa [phaseOk, hi] using h.phase
    exact hcaller rfl hphase.1 (by rw [hi] at hs; exact hs)
  | wr1 => exact (h.completing hi rfl).cs
  | _ => rw [hi] at hs; cases hs

theorem Control.cs_of_rxSite (h : Control s) (hs : rxSite s.ipc = true) : s.cs = true := by
  cases hi : s.ipc with
  | rd3 | rd6 =>
    have hat := h.reading hi rfl
    rw [hat.cs, ← Option.some.inj hat.phase]
    rfl
  | _ => rw [hi] at hs; cases hs

/-! ## The sequencers -/

/-- The bytes of TX that a move can change (20_memory.md R63): the header at W_HDR, the guard by INIT. -/
def movesTx (op : Option Instr) (s : State) (j : Nat) : Prop :=
  (j < 5 ∧ s.wpc = .hdr ∧ s.ipc = .rest) ∨ (j = s.cfg.txCap ∧ op = some .init)

/-- The bytes of RX that a move can change (R64): those of the two shuttles, the guard by INIT. -/
def movesRx (op : Option Instr) (s : State) (j : Nat) : Prop :=
  (j < 10 ∧ s.ipc = .rd3) ∨ (10 ≤ j ∧ s.ipc = .rd6) ∨ (j = s.cfg.rxCap ∧ op = some .init)

/-- A micro-step of a sequencer that issues a transmit shuttle. -/
theorem whenDone_shuttleTx_footprint {f : State → State} (base : Nat) (n : Count) (h : Control s)
    (hs : txSite s.ipc s.wpc = true) (hf : ∀ u, Footprint tx rx s u → Footprint tx rx s (f u)) :
    Ensures (Footprint tx rx s) (whenDone txDone f (execShuttleTx base n s)) :=
  have hsent : Ensures (Footprint tx rx s) (execShuttleTx base n s) := shuttleTx_footprint base n (h.cs_of_txSite hs)
  hsent.whenDone (fun u hu _ => hf u hu) fun _ hu _ => hu

/-- A micro-step of I that issues a receive shuttle. -/
theorem whenDone_shuttleRx_footprint (base : Nat) (n k0 : Count) (l : ILabel) (h : Control s)
    (hs : rxSite s.ipc = true) (hrange : ∀ rem : Count, rem ≠ 0 → rx (base + cursor n rem)) :
    Ensures (Footprint tx rx s) (whenDone rxDone (goI l) (execShuttleRx base n k0 s)) := by
  have hreceived : Ensures (Footprint tx rx s) (execShuttleRx base n k0 s) :=
    (shuttleRx_footprint base n k0 (h.cs_of_rxSite hs)).imp fun _ hu =>
      hu.mono (fun _ => False.elim) fun _ ⟨rem, hrem, hj⟩ => hj ▸ hrange rem hrem
  exact hreceived.whenDone (fun _ hu _ => hu.goI l) fun _ hu _ => hu

/-- A position of the header's shuttle is one of the ten. -/
theorem cursor_ten_lt {rem : Count} (h : rem ≠ 0) : 0 + cursor 10 rem < 10 := by
  obtain ⟨m, hm⟩ := exists_count_succ h
  have h10 : (10 : Count).toNat = 10 := rfl
  unfold cursor
  omega

theorem wStep_footprint {op : Option Instr} (h : Control s) (hi : s.ipc = .rest) :
    Ensures (Footprint (movesTx op s) (movesRx op s) s) (wStep s) := by
  cases hq : quietW s.wpc with
  | true => exact (wStep_quiet hq).imp fun _ => Quiet.footprint
  | false =>
    cases hw : s.wpc with
    | init => have hphase := (h.caller hi hw).phase; cases hphase
    | hdr =>
      simp only [wStep, hw]
      exact (buildHdr_footprint s.wrL s).andThen fun u hu =>
        (hu.goW .br).mono (fun _ hj => .inl ⟨hj, hw, hi⟩) fun _ => False.elim
    | wu3 | wu5 | il1 =>
      simp only [wStep, hw]
      exact whenDone_shuttleTx_footprint _ _ h (by rw [hi, hw]; rfl) fun _ => Footprint.goW _
    | _ => rw [hw] at hq; cases hq

theorem iStep_footprint {op : Option Instr} (h : Control s) :
    Ensures (Footprint (movesTx op s) (movesRx op s) s) (iStep s) := by
  cases hq : quietI s.ipc with
  | true => exact (iStep_quiet hq).imp fun _ => Quiet.footprint
  | false =>
    cases hi : s.ipc with
    | rd3 =>
      simp only [iStep, hi]
      exact whenDone_shuttleRx_footprint 0 10 0 .rd4 h (by rw [hi]; rfl) fun _ hrem => .inl ⟨cursor_ten_lt hrem, hi⟩
    | rd6 =>
      simp only [iStep, hi]
      exact whenDone_shuttleRx_footprint 10 s.rxN 10 .rd7 h (by rw [hi]; rfl) fun _ _ =>
        .inr (.inl ⟨Nat.le_add_right _ _, hi⟩)
    | wr1 =>
      simp only [iStep, hi]
      exact whenDone_shuttleTx_footprint _ _ h (by rw [hi]; rfl) fun _ => Footprint.goI _
    | _ => rw [hi] at hq; cases hq

/-! ## The environment's operations -/

/-- The operations of the environment but WRITE: INIT stores the guards, the others nothing. -/
theorem exec_environmental_footprint {i : Instr} (henv : environmental i = true)
    (hwrite : ∀ len payload, i ≠ .write len payload) :
    Ensures (Footprint (fun j => j = s.cfg.txCap ∧ i = .init) (fun j => j = s.cfg.rxCap ∧ i = .init) s)
      (exec i s) := by
  cases i with
  | init =>
    show Footprint _ _ s (hostCommand 1 s.env.wrLen initStep s)
    cases hr : s.cmdReady with
    | true =>
      rw [hostCommand_ready hr]
      have hinit := initStep_footprint (withdraw s)
      exact ⟨hinit.exchanges, fun j hj => ⟨hinit.txBytes j hj, rfl⟩, fun j hj => ⟨hinit.rxBytes j hj, rfl⟩⟩
    | false =>
      rw [hostCommand_held hr]
      exact Quiet.footprint {}
  | write len payload => exact absurd rfl (hwrite len payload)
  | nocmd | submitWrite _ | cmdReserved | edge | frameIn _ =>
    exact (exec_quiet rfl s).imp fun _ => Quiet.footprint
  | _ => cases henv

theorem portCommand_ne_write (s : State) (len : Half) (payload : List Byte) : s.portCommand ≠ .write len payload := by
  unfold State.portCommand decodeCmd
  split
  · split <;> exact nofun
  · exact nofun

/-- HDST's own move (60_exceptions.md R229). -/
theorem seqStep_footprint (hst : Standing s) (h : Control s) :
    Ensures (Footprint (movesTx (seqFetched s) s) (movesRx (seqFetched s) s) s) (seqStep s) := by
  have hu := hst.uop
  cases hh : s.halted with
  | true => rw [seqStep_halted hh]; trivial
  | false =>
    by_cases hi : s.ipc = .rest
    · cases hs : s.irqStart with
      | true => rw [seqStep_irqStart hu hs]; exact Quiet.footprint {}
      | false =>
        by_cases hw : s.wpc = .rest
        · have hfetched : seqFetched s = some s.portCommand := by simp [seqFetched, hh, hu, hi, hs, hw]
          rw [seqStep_command hh hu hi hs hw, hfetched]
          have hcommand := exec_environmental_footprint (s := s) (portCommand_environmental s) (portCommand_ne_write s)
          exact hcommand.imp fun _ hu => hu.mono (fun _ => fun ⟨hj, hinit⟩ => .inr ⟨hj, congrArg some hinit⟩)
            fun _ => fun ⟨hj, hinit⟩ => .inr (.inr ⟨hj, congrArg some hinit⟩)
        · rw [seqStep_caller hh hu hi hs hw]
          exact wStep_footprint h hi
    · rw [seqStep_irqPath hh hu hi]
      exact iStep_footprint h

/-! ## The whole step -/

/-- A reset or a store of the host. -/
def overwrites (s : State) : Prop := s.resets = true ∨ s.hostStores = true

/-- The footprint of a step: a reset and the host's stores aside, its bytes are those of HDST's own move and of INIT. -/
def StepFootprint (s : State) : State → Prop :=
  Footprint
    (fun j => overwrites s ∨ (j < 5 ∧ s.wpc = .hdr ∧ s.ipc = .rest ∧ s.selfMove = true) ∨
      (j = s.cfg.txCap ∧ s.fetched = some .init))
    (fun j => overwrites s ∨ (j < 10 ∧ s.ipc = .rd3 ∧ s.selfMove = true) ∨
      (10 ≤ j ∧ s.ipc = .rd6 ∧ s.selfMove = true) ∨ (j = s.cfg.rxCap ∧ s.fetched = some .init)) s

section
variable {t : State}

/-- Where HDST itself moves, the step has the footprint of the move. -/
theorem StepFootprint.of_move (hm : s.selfMove = true) (hf : s.fetched = seqFetched s)
    (h : Footprint (movesTx (seqFetched s) s) (movesRx (seqFetched s) s) s t) : StepFootprint s t := by
  rw [← hf] at h
  refine h.mono (fun j hj => .inr ?_) (fun j hj => .inr ?_)
  · exact hj.imp_left fun ⟨hlt, hw, hi⟩ => ⟨hlt, hw, hi, hm⟩
  · exact hj.imp (fun ⟨hlt, hi⟩ => ⟨hlt, hi, hm⟩) (Or.imp_left fun ⟨hle, hi⟩ => ⟨hle, hi, hm⟩)

/-- A reset or a store of the host makes no exchange. -/
theorem StepFootprint.of_overwrites (ho : overwrites s) (hx : exchangesIn t.trace = exchangesIn s.trace) :
    StepFootprint s t := ⟨.inl hx, fun _ _ => .inl ho, fun _ _ => .inl ho⟩

end

theorem hostStore_silent (sp : Space) (i : Nat) (bs : List Byte) (s : State) :
    Ensures (fun t => exchangesIn t.trace = exchangesIn s.trace) (hostStore sp i bs s) := by
  rcases hostStore_cases sp i bs s with ⟨_, hs⟩ | ⟨_, hs⟩ <;> rw [hs]
  · cases s.halted
    · exact congrArg exchangesIn (store_trace s sp i bs)
    · exact rfl
  · trivial

theorem write_silent (len : Half) (payload : List Byte) (s : State) :
    Ensures (fun t => exchangesIn t.trace = exchangesIn s.trace) (exec (.write len payload) s) :=
  (hostStore_silent .tx 5 payload s).andThen fun u hu =>
    (hostCommand_quiet (acceptWrite_quiet len) u).exchanges.trans hu

/-- An action of the environment other than a reset and a store. -/
theorem applyAction_quiet {a : Action} (hr : a ≠ .reset) (hh : ∀ sp i bs, a ≠ .host sp i bs) (s : State) :
    Ensures (Quiet s) (applyAction a s) := by
  cases a with
  | reset => exact absurd rfl hr
  | host sp i bs => exact absurd rfl (hh sp i bs)
  | line v => exact clockEdges_quiet v _ s
  | timerAck => show Quiet s (if s.dReq then _ else s); split <;> exact {}
  | ack => show Quiet s (if s.sValid then _ else s); split <;> exact {}
  | present _ _ | clk _ | reply _ | engine _ | timer _ | sink _ | issue _ | pass => exact {}

section
variable {item : Item} {later : List Item} (hscript : s.env.script = item :: later)
  (hdue : s.isDue item.due = true)
include hscript hdue

/-- A due word that the environment issues runs with the footprint of its operation. -/
theorem issued_footprint {word left : List Byte} {i : Instr} (ha : item.act = .issue word)
    (hw : decode s.cfg word = .ok (i, left)) (henv : environmental i = true) :
    Ensures (StepFootprint s) (exec i (dropItem s)) := by
  have hfetched : s.fetched = some i := by simp [State.fetched, hscript, hdue, ha, hw, Except.toOption]
  by_cases hwrite : ∃ len payload, i = .write len payload
  · obtain ⟨len, payload, rfl⟩ := hwrite
    have ho : overwrites s := .inr (by simp [State.hostStores, hscript, hdue, ha, hw])
    exact (write_silent len payload (dropItem s)).imp fun _ => StepFootprint.of_overwrites ho
  · have hexec := exec_environmental_footprint (s := dropItem s) henv
      fun len payload hi => hwrite ⟨len, payload, hi⟩
    refine hexec.imp fun t ht => ⟨ht.exchanges, fun j hj => .inr (.inr ?_), fun j hj => .inr (.inr (.inr ?_))⟩
    · obtain ⟨hcap, hinit⟩ := ht.txBytes j hj
      exact ⟨hcap, hfetched.trans (congrArg some hinit)⟩
    · obtain ⟨hcap, hinit⟩ := ht.rxBytes j hj
      exact ⟨hcap, hfetched.trans (congrArg some hinit)⟩

theorem due_footprint (hst : Standing s) (h : Control s) :
    Ensures (StepFootprint s) (boundaryStep item.act (dropItem s)) := by
  have hquiet : item.act ≠ .reset → (∀ sp i bs, item.act ≠ .host sp i bs) →
      Ensures (StepFootprint s) (applyAction item.act (dropItem s)) := fun hr hh =>
    (applyAction_quiet hr hh (dropItem s)).imp fun t ht => ((dropItem_quiet s).trans ht).footprint
  cases ha : item.act with
  | pass =>
    refine (seqStep_footprint hst.dropItem h.dropItem).imp fun t ht => StepFootprint.of_move ?_ ?_
      ⟨ht.exchanges, ht.txBytes, ht.rxBytes⟩
    · simp [State.selfMove, hscript, ha]
    · simp [State.fetched, hscript, hdue, ha]
  | issue word =>
    cases hw : decode s.cfg word with
    | error e =>
      have hdrop : decode (dropItem s).cfg word = .error e := hw
      simp only [boundaryStep, hdrop]; trivial
    | ok r =>
      have hdrop : decode (dropItem s).cfg word = .ok r := hw
      have henv := hst.environmental_of_issue hscript ha hw
      simp only [boundaryStep, hdrop, issueOp_environmental henv]
      exact issued_footprint hscript hdue ha hw henv
  | reset => exact StepFootprint.of_overwrites (.inl (by simp [State.resets, hscript, hdue, ha])) rfl
  | host sp i bs =>
    have ho : overwrites s := .inr (by simp [State.hostStores, hscript, hdue, ha])
    exact (hostStore_silent sp i bs (dropItem s)).imp fun _ => StepFootprint.of_overwrites ho
  | _ =>
    rw [ha] at hquiet
    exact hquiet nofun nofun

end

theorem step_footprint (h : Inv s) : Ensures (StepFootprint s) (step s) := by
  obtain ⟨hst, hc⟩ := inv_iff.mp h
  have hown : s.selfMove = true → s.fetched = seqFetched s → Ensures (StepFootprint s) (seqStep s) := fun hm hf =>
    (seqStep_footprint hst hc).imp fun _ => StepFootprint.of_move hm hf
  cases hscript : s.env.script with
  | nil =>
    rw [step_alone hscript]
    exact hown (by simp [State.selfMove, hscript]) (by simp [State.fetched, hscript])
  | cons item later =>
    cases hdue : s.isDue item.due with
    | false =>
      rw [step_notDue hscript hdue]
      exact hown (by simp [State.selfMove, hscript, hdue]) (by simp [State.fetched, hscript, hdue])
    | true =>
      rw [step_due hscript hdue]
      exact due_footprint hscript hdue hst hc

end

/-! ## The obligations -/

/-- Settles O57: the footprint of a step that is neither a reset nor a store of the host. -/
theorem bufferWriters : Obligations.BufferWriters := by
  intro s t j hinv hstep hreset hstore
  have hnone : ¬overwrites s := by simp [overwrites, hreset, hstore]
  have hfoot : StepFootprint s t := (step_footprint hinv).of_next hstep
  exact ⟨fun hj => (hfoot.txBytes j hj).resolve_left hnone, fun hj => (hfoot.rxBytes j hj).resolve_left hnone⟩

/-- Settles O54: a step whose footprint holds an exchange records nothing else, with chip-select asserted. -/
theorem exchangesInsideTransactions : Obligations.ExchangesInsideTransactions := by
  intro s t news out inp hinv hstep htrace hmem
  have hfoot : StepFootprint s t := (step_footprint hinv).of_next hstep
  rcases hfoot.exchanges with hsilent | ⟨hcs, hcs', o, i, hone⟩
  · have hnone : exchangesIn news = [] := by simpa [exchangesIn, htrace] using hsilent
    have : .exchange out inp ∈ exchangesIn news := List.mem_filter.mpr ⟨hmem, rfl⟩
    exact absurd (hnone ▸ this) List.not_mem_nil
  · have hnews : news = [.exchange o i] := List.append_cancel_right (htrace.symm.trans hone)
    have hsame : Event.exchange out inp = .exchange o i := List.mem_singleton.mp (hnews ▸ hmem)
    exact ⟨hsame ▸ hnews, hcs, hcs'⟩

end Sys2Proof.Machine
end

section
/-! Settles the first part of the family of 30_encoding.md: encodings (O1 to O4) and the command on the port (O6). -/

namespace Sys2Proof
open Machine

/-! ## The first byte (log 15) -/

section
variable {code : Nat} (hc : code < 16)
include hc

theorem opByte_toNat {space : Nat} (hs : space < 16) : (opByte space code).toNat = 16 * space + code := by
  rw [opByte, BitVec.toNat_ofNat, Nat.mod_eq_of_lt (by omega)]

theorem opByte_div {space : Nat} (hs : space < 16) : (opByte space code).toNat / 16 = space := by
  rw [opByte_toNat hc hs]; omega

theorem opByte_mod {space : Nat} (hs : space < 16) : (opByte space code).toNat % 16 = code := by
  rw [opByte_toNat hc hs]; omega

end

/-- Every byte is the first byte of its code space and its code. -/
theorem opByte_parts (op : Byte) : opByte (op.toNat / 16) (op.toNat % 16) = op := by
  rw [opByte, Nat.div_add_mod, BitVec.ofNat_toNat, BitVec.setWidth_eq]

/-! ## One equation per code space -/

section
variable (c : Config) {code : Nat} (hc : code < 16) (bs : List Byte)
include hc

theorem decodeRaw_uop : decodeRaw c (opByte 0 code :: bs) = decodeUop code bs := by
  simp only [decodeRaw, opByte_div hc, opByte_mod hc, Nat.reduceLT]

theorem decodeRaw_command : decodeRaw c (opByte 1 code :: bs) = decodeCommand code bs := by
  simp only [decodeRaw, opByte_div hc, opByte_mod hc, Nat.reduceLT]

theorem decodeRaw_irq : decodeRaw c (opByte 2 code :: bs) = .ok (decodeIrq (BitVec.ofNat 4 code), bs) := by
  simp only [decodeRaw, opByte_div hc, opByte_mod hc, Nat.reduceLT]

theorem decodeRaw_pseudo : decodeRaw c (opByte 5 code :: bs) = decodePseudo code bs := by
  simp only [decodeRaw, opByte_div hc, opByte_mod hc, Nat.reduceLT]

end

theorem decodeRaw_wrframe (c : Config) (bs : List Byte) : decodeRaw c (opByte 3 0 :: bs) = decodeWrframe bs := rfl

theorem decodeRaw_rdframe (c : Config) (bs : List Byte) : decodeRaw c (opByte 4 0 :: bs) = decodeRdframe c bs := rfl

/-! ## Operands and headers, read as they were written -/

theorem bind_ok {α β : Type} (a : α) (f : α → Except DecodeError β) : (Except.ok a >>= f) = f a := rfl

theorem decodeSpace_encodeSpace (sp : Space) : decodeSpace (encodeSpace sp).toNat = .ok sp := by cases sp <;> rfl

theorem decodeSite_encodeSite (site : Site) : decodeSite (encodeSite site).toNat = .ok site := by cases site <;> rfl

/-- The codes of `state` without an arm of their own (43_transport_read.md R191). -/
theorem decodeIrq_other {code : BitVec 4} (h0 : code ≠ 0) (h2 : code ≠ 2) (h3 : code ≠ 3) :
    decodeIrq code = .onIrqOther code := by
  revert code; decide

/-- The operation of a read header, by its kind (R95, R96). -/
def rdframe : FrameKind → List Byte → Instr
  | .data, h => .rdframeData h
  | .event, h => .rdframeEvent h
  | .other, h => .rdframeOther h

theorem encode_rdframe (kind : FrameKind) (h : List Byte) : encode (rdframe kind h) = opByte 4 0 :: h := by
  cases kind <;> rfl

theorem rdframe_wf_iff {c : Config} {kind : FrameKind} {h : List Byte} :
    (rdframe kind h).wf c = true ↔ h.length = 10 ∧ headerKind c h = kind := by
  cases kind <;> simp [rdframe, Instr.wf]

/-- Ten bytes are a read header, of the kind that its tag selects. -/
theorem decodeRdframe_taken {c : Config} {bs h rest : List Byte} (ht : takeBytes 10 bs = .ok (h, rest)) :
    decodeRdframe c bs = .ok (rdframe (headerKind c h) h, rest) := by
  simp only [decodeRdframe, ht]
  cases headerKind c h <;> rfl

theorem decodeRaw_encode_rdframe {c : Config} {kind : FrameKind} {h : List Byte} (rest : List Byte)
    (hwf : (rdframe kind h).wf c = true) :
    decodeRaw c (encode (rdframe kind h) ++ rest) = .ok (rdframe kind h, rest) := by
  obtain ⟨hlen, hkind⟩ := rdframe_wf_iff.mp hwf
  rw [encode_rdframe, List.cons_append, decodeRaw_rdframe,
    decodeRdframe_taken (hlen ▸ takeBytes_append h rest), hkind]

theorem decodeRaw_encode {c : Config} {i : Instr} (rest : List Byte) (hwf : i.wf c = true) :
    decodeRaw c (encode i ++ rest) = .ok (i, rest) := by
  cases i with
  | onIrqPowerup => exact decodeRaw_irq c (code := 0) (by decide) rest
  | onIrqIdle => exact decodeRaw_irq c (code := 2) (by decide) rest
  | onIrqWriteirq => exact decodeRaw_irq c (code := 3) (by decide) rest
  | onIrqOther code =>
    simp only [Instr.wf, Bool.and_eq_true, bne_iff_ne] at hwf
    obtain ⟨⟨h0, h2⟩, h3⟩ := hwf
    rw [encode, List.cons_append, List.nil_append, decodeRaw_irq c code.isLt, BitVec.ofNat_toNat, BitVec.setWidth_eq,
      decodeIrq_other h0 h2 h3]
  | wrframe tag hi lo => exact decodeRaw_wrframe c (headerBytes tag hi lo ++ rest)
  | rdframeData h => exact decodeRaw_encode_rdframe (kind := .data) rest hwf
  | rdframeEvent h => exact decodeRaw_encode_rdframe (kind := .event) rest hwf
  | rdframeOther h => exact decodeRaw_encode_rdframe (kind := .other) rest hwf
  | frameIn bytes =>
    have hlen : bytes.length < 2 ^ 24 := of_decide_eq_true hwf
    simp only [encode, List.cons_append, decodeRaw_pseudo, Nat.reduceLT, decodePseudo,
      takeCounted_putCounted _ _ hlen, bind_ok]
  | write len payload =>
    have hlen : payload.length < 2 ^ 24 := of_decide_eq_true hwf
    simp only [encode, List.cons_append, List.append_assoc, decodeRaw_pseudo, Nat.reduceLT, decodePseudo,
      take16_put16, takeCounted_putCounted _ _ hlen, bind_ok]
  | _ =>
    simp only [encode, List.cons_append, List.nil_append, List.append_assoc, decodeRaw_uop, decodeRaw_command,
      decodeRaw_pseudo, Nat.reduceLT, decodeUop, decodeCommand, decodePseudo, bind_ok, take8, take16_put16,
      take17_put17, takeIndex_putIndex, decodeSpace_encodeSpace, decodeSite_encodeSite]

/-- An operation decodes exactly where the bytes before the check hold one that is well formed. -/
theorem decode_eq_ok {c : Config} {bs rest : List Byte} {i : Instr} :
    decode c bs = .ok (i, rest) ↔ decodeRaw c bs = .ok (i, rest) ∧ i.wf c = true := by
  unfold decode
  cases decodeRaw c bs with
  | error e => simp
  | ok taken =>
    obtain ⟨j, left⟩ := taken
    by_cases hj : j.wf c = true
    · simp only [hj, if_true]
      refine (and_iff_left_of_imp fun h => ?_).symm
      cases h
      exact hj
    · simp only [hj, Bool.false_eq_true, if_false, reduceCtorEq, false_iff]
      rintro ⟨h, hwf⟩
      cases h
      exact hj hwf

/-- Settles O1: each operation is read back by the decoder of its code space. -/
theorem decodeOfEncode : Obligations.DecodeOfEncode :=
  fun _ _ rest hwf => decode_eq_ok.mpr ⟨decodeRaw_encode rest hwf, hwf⟩

/-! ## What is read was written so -/

theorem bind_eq_ok {α β : Type} {x : Except DecodeError α} {f : α → Except DecodeError β} {b : β} :
    (x >>= f) = .ok b ↔ ∃ a, x = .ok a ∧ f a = .ok b := by
  cases x with
  | error e => exact ⟨nofun, fun ⟨_, h, _⟩ => nomatch h⟩
  | ok a => exact ⟨fun h => ⟨a, rfl, h⟩, fun ⟨_, h, h'⟩ => by cases h; exact h'⟩

theorem decodeSpace_eq {b : Byte} {sp : Space} (h : decodeSpace b.toNat = .ok sp) : b = encodeSpace sp := by
  apply BitVec.eq_of_toNat_eq
  unfold decodeSpace at h
  split at h
  · next hb => cases h; exact hb
  · next hb => cases h; exact hb
  · cases h

theorem decodeSite_eq {b : Byte} {site : Site} (h : decodeSite b.toNat = .ok site) : b = encodeSite site := by
  apply BitVec.eq_of_toNat_eq
  unfold decodeSite at h
  split at h
  · next hb => cases h; exact hb
  · next hb => cases h; exact hb
  · next hb => cases h; exact hb
  · next hb => cases h; exact hb
  · cases h

theorem decodeIrq_encode (code : BitVec 4) : encode (decodeIrq code) = [opByte 2 code.toNat] := by
  revert code; decide

theorem decodeUop_eq {bs rest : List Byte} {i : Instr} : ∀ {code : Nat}, decodeUop code bs = .ok (i, rest) →
    opByte 0 code :: bs = encode i ++ rest
  | 0, h | 1, h | 2, h | 5, h | 6, h | 7, h | 11, h => by cases h; rfl
  | 3, h => by
    obtain ⟨⟨b, left⟩, hb, h⟩ := bind_eq_ok.mp h
    cases h
    rw [take8_eq hb]; rfl
  | 4, h | 10, h => by
    obtain ⟨⟨n, left⟩, hn, h⟩ := bind_eq_ok.mp h
    cases h
    rw [take16_eq hn]; rfl
  | 8, h => by
    obtain ⟨⟨p, left⟩, hp, h⟩ := bind_eq_ok.mp h
    obtain ⟨⟨n, left'⟩, hn, h⟩ := bind_eq_ok.mp h
    cases h
    rw [takeIndex_eq hp, take16_eq hn]
    simp only [encode, List.cons_append, List.append_assoc]
  | 9, h => by
    obtain ⟨⟨b, left⟩, hb, h⟩ := bind_eq_ok.mp h
    obtain ⟨⟨t, left'⟩, ht, h⟩ := bind_eq_ok.mp h
    obtain ⟨sp, hsp, h⟩ := bind_eq_ok.mp h
    obtain ⟨site, hsite, h⟩ := bind_eq_ok.mp h
    cases h
    rw [take8_eq hb, take8_eq ht, decodeSpace_eq hsp, decodeSite_eq hsite]; rfl
  | 12, h => by
    obtain ⟨⟨b, left⟩, hb, h⟩ := bind_eq_ok.mp h
    obtain ⟨⟨n, left'⟩, hn, h⟩ := bind_eq_ok.mp h
    cases h
    rw [takeIndex_eq hb, take17_eq hn]
    simp only [encode, List.cons_append, List.append_assoc]
  | 13, h => by
    obtain ⟨⟨b, left⟩, hb, h⟩ := bind_eq_ok.mp h
    obtain ⟨⟨n, left'⟩, hn, h⟩ := bind_eq_ok.mp h
    obtain ⟨⟨k, left''⟩, hk, h⟩ := bind_eq_ok.mp h
    cases h
    rw [takeIndex_eq hb, take17_eq hn, take17_eq hk]
    simp only [encode, List.cons_append, List.append_assoc]
  | _ + 14, h => nomatch h

theorem decodeCommand_eq {bs rest : List Byte} {i : Instr} : ∀ {code : Nat}, decodeCommand code bs = .ok (i, rest) →
    opByte 1 code :: bs = encode i ++ rest
  | 0, h | 1, h | 3, h => by cases h; rfl
  | 2, h => by
    obtain ⟨⟨n, left⟩, hn, h⟩ := bind_eq_ok.mp h
    cases h
    rw [take16_eq hn]; rfl
  | _ + 4, h => nomatch h

theorem decodePseudo_eq {bs rest : List Byte} {i : Instr} : ∀ {code : Nat}, decodePseudo code bs = .ok (i, rest) →
    opByte 5 code :: bs = encode i ++ rest
  | 0, h => by cases h; rfl
  | 1, h => by
    obtain ⟨⟨p, left⟩, hp, h⟩ := bind_eq_ok.mp h
    cases h
    rw [takeCounted_eq hp]; rfl
  | 2, h => by
    obtain ⟨⟨n, left⟩, hn, h⟩ := bind_eq_ok.mp h
    obtain ⟨⟨p, left'⟩, hp, h⟩ := bind_eq_ok.mp h
    cases h
    rw [take16_eq hn, takeCounted_eq hp]
    simp only [encode, List.cons_append, List.append_assoc]
  | _ + 3, h => nomatch h

theorem decodeWrframe_eq {bs rest : List Byte} {i : Instr} (h : decodeWrframe bs = .ok (i, rest)) :
    opByte 3 0 :: bs = encode i ++ rest := by
  unfold decodeWrframe at h
  split at h
  · split at h
    · next hzero =>
      obtain ⟨rfl, rfl⟩ := hzero
      cases h
      rfl
    · cases h
  · cases h

theorem decodeRdframe_eq {c : Config} {bs rest : List Byte} {i : Instr} (h : decodeRdframe c bs = .ok (i, rest)) :
    opByte 4 0 :: bs = encode i ++ rest := by
  cases htake : takeBytes 10 bs with
  | error e => simp [decodeRdframe, htake] at h
  | ok taken =>
    rw [decodeRdframe_taken htake] at h
    cases h
    rw [encode_rdframe, (takeBytes_eq htake).2, List.cons_append]

theorem decodeIrq_eq {code : Nat} (hc : code < 16) : encode (decodeIrq (BitVec.ofNat 4 code)) = [opByte 2 code] := by
  rw [decodeIrq_encode, BitVec.toNat_ofNat, Nat.mod_eq_of_lt hc]

/-- The bytes that decode are those of the operation, whichever the code space. -/
theorem decodeRaw_eq {c : Config} {bs rest : List Byte} {i : Instr} (h : decodeRaw c bs = .ok (i, rest)) :
    bs = encode i ++ rest := by
  cases bs with
  | nil => cases h
  | cons op bs =>
    have hcode : op.toNat % 16 < 16 := Nat.mod_lt _ (by decide)
    rw [← opByte_parts op]
    simp only [decodeRaw] at h
    split at h
    · next hs => rw [hs]; exact decodeUop_eq h
    · next hs => rw [hs]; exact decodeCommand_eq h
    · next hs =>
      cases h
      rw [hs, decodeIrq_eq hcode]; rfl
    · next hs =>
      split at h
      · next h0 => rw [hs, h0]; exact decodeWrframe_eq h
      · cases h
    · next hs =>
      split at h
      · next h0 => rw [hs, h0]; exact decodeRdframe_eq h
      · cases h
    · next hs => rw [hs]; exact decodePseudo_eq h
    · cases h

/-- Settles O2: the check of `decode` is well-formedness, and what each code space reads was written so. -/
theorem encodeOfDecode : Obligations.EncodeOfDecode := by
  intro c bs rest i h
  obtain ⟨hraw, hwf⟩ := decode_eq_ok.mp h
  exact ⟨hwf, decodeRaw_eq hraw⟩

/-! ## Words and commands -/

/-- Settles O3: the decoder, run on the words. -/
theorem writtenWordsDecode : Obligations.WrittenWordsDecode := by
  unfold Obligations.WrittenWordsDecode
  and_intros <;> rfl

theorem decodeUop_unused {code : Nat} (hc : code = 14 ∨ code = 15) (bs : List Byte) :
    decodeUop code bs = .error .unusedUop := by
  rcases hc with rfl | rfl <;> rfl

theorem decode_unused (c : Config) {code : Nat} (hc : code = 14 ∨ code = 15) (bs : List Byte) :
    decode c (opByte 0 code :: bs) = .error .unusedUop := by
  have hlt : code < 16 := by omega
  simp only [decode, decodeRaw_uop c hlt, decodeUop_unused hc]

/-- Settles O4: the issued word is due and does not decode. -/
theorem unusedCodesRefused : Obligations.UnusedCodesRefused := by
  intro s code more later hc hscript
  rw [step_due hscript rfl]
  show boundaryStep (.issue (opByte 0 code :: more)) (dropItem s) = _
  simp only [boundaryStep, decode_unused _ hc]

end Sys2Proof

namespace Sys2Proof.Machine

theorem portCommand_valid {s : State} (hv : s.env.cmdValid = true) :
    s.portCommand = decodeCmd s.env.cmd s.env.wrLen := if_pos hv

theorem portCommand_none {s : State} (hv : s.env.cmdValid = false) : s.portCommand = .nocmd := by
  simp [State.portCommand, hv]

/-- A block at rest takes the command on its port (30_encoding.md R108). -/
theorem step_ready {s : State} (hs : runsAlone s) (hr : s.cmdReady = true) : step s = exec s.portCommand s := by
  obtain ⟨hscript, hbus, hrun⟩ := hs
  obtain ⟨hw, hi, hp, _⟩ := (cmdReady_iff s).mp hr
  rw [step_alone hscript, seqStep_command hrun hbus hi (irqStart_noPend hp) hw]

/-- Settles O6: the command on the port, for each of its codes. -/
theorem portCommandRuns : Obligations.PortCommandRuns := by
  intro s hs hr
  rw [step_ready hs hr]
  refine ⟨fun hv => by rw [portCommand_none hv], ?_, ?_, ?_, ?_⟩ <;>
  · intro hv hc
    rw [portCommand_valid hv, hc]
    rfl

end Sys2Proof.Machine
end

section
/-! The family of 30_encoding.md, the request line: one clock edge (O22), the abstract form (O23), EDGE and FRAME_IN
(O24), IRQ_LVL and code 0 (O21). -/

namespace Sys2Proof.Machine

/-! ## One clock edge (41_irq_sync.md R141, R142, R144) -/

theorem dropItem_eq {s : State} {item : Item} {later : List Item} (h : s.env.script = item :: later) :
    dropItem s = { s with env := { s.env with script := later } } := by
  simp only [dropItem, h, List.tail_cons]

/-- The last bit of the chain enters `irq_s`. -/
theorem syncOut_append (irqMeta last : Bool) (bits : List Bool) : syncOut irqMeta (bits ++ [last]) = last := by
  rw [syncOut, ← List.cons_append, List.getLast?_concat, Option.getD_some]

/-- Every other bit moves on by one. -/
theorem syncShift_append (irqMeta last : Bool) (bits : List Bool) :
    syncShift irqMeta (bits ++ [last]) = irqMeta :: bits := by
  rw [syncShift, ← List.cons_append, List.dropLast_concat]

theorem pendNext_iff (en pend irqS prev : Bool) :
    pendNext en pend (edgeSeen irqS prev) = true ↔ pend = true ∨ (en = true ∧ irqS = true ∧ prev = false) := by
  cases en <;> simp [pendNext, edgeSeen]

/-- Settles O22: the due line is one clock edge, read off for an empty chain and for a chain with a last bit. -/
theorem synchroniserClock : Obligations.SynchroniserClock := by
  intro s pin later hscript
  have hstep : step s = .next (clockEdge (activeLevel s.cfg pin) (dropItem s)) := step_due hscript rfl
  rw [dropItem_eq hscript] at hstep
  refine ⟨_, hstep, rfl, rfl, fun hchain => ?_, fun bits last hchain => ?_, pendNext_iff .., rfl⟩
  · simp [clockEdge, hchain, syncOut, syncShift]
  · simp only [clockEdge, hchain, syncOut_append, syncShift_append, and_self]

/-! ## A level that the synchroniser follows (R143) -/

theorem clockEdges_add (level : Bool) (m n : Nat) (s : State) :
    clockEdges level (m + n) s = clockEdges level n (clockEdges level m s) := by
  induction m generalizing s with
  | zero => rw [Nat.zero_add]; rfl
  | succ m ih => rw [Nat.succ_add, clockEdges, ih, clockEdges]

/-- A level that has entered the first k bits of the synchroniser goes on through the j bits that still hold the old
one; until it leaves the last of them no sample changes, so no edge is seen. -/
theorem clockEdges_fill {v a : Bool} {j k m : Nat} {s : State}
    (hbits : s.irqMeta :: s.irqChain = List.replicate k v ++ List.replicate j a) (hlen : k + j = m + 1)
    (hsample : s.irqS = a) (hprev : s.irqPrev = a) :
    clockEdges v j s = { s with irqMeta := v, irqChain := List.replicate m v } := by
  induction j generalizing k s with
  | zero =>
    obtain rfl : k = m + 1 := hlen
    rw [List.replicate_zero, List.append_nil, List.replicate_succ] at hbits
    obtain ⟨rfl, hchain⟩ := List.cons.inj hbits
    rw [← hchain]
    rfl
  | succ j ih =>
    have hlast : s.irqMeta :: s.irqChain = (List.replicate k v ++ List.replicate j a) ++ [a] := by
      rw [hbits, List.replicate_succ', List.append_assoc]
    have hstep : clockEdge v s =
        { s with irqMeta := v, irqChain := List.replicate k v ++ List.replicate j a } := by
      simp only [clockEdge, syncOut, syncShift, hlast, List.getLast?_concat, List.dropLast_concat, hsample,
        Option.getD_some]
      cases s
      cases hsample
      cases hprev
      simp [pendNext, edgeSeen]
    rw [clockEdges, hstep]
    exact ih (k := k + 1) rfl (by omega) hsample hprev

/-- The synchroniser has followed a level: every bit holds it. -/
def holdLevel (v pend : Bool) (s : State) : State :=
  { s with irqMeta := v, irqChain := List.replicate (s.cfg.syncStages - 2) v, irqS := v, irqPrev := v, irqPend := pend }

theorem holdLevel_settled (v pend : Bool) (s : State) : settled (holdLevel v pend s) := ⟨rfl, rfl, rfl⟩

/-- Where every bit holds the level already and no edge is new, nothing is moved. -/
theorem holdLevel_self {s : State} (hs : settled s) : holdLevel s.irqS s.irqPend s = s := by
  obtain ⟨hmeta, hprev, hchain⟩ := hs
  rw [holdLevel, ← hchain]
  cases s
  cases hmeta
  cases hprev
  rfl

/-- A level that fills the chain is sampled at the next edge, and is the previous sample at the one after it. -/
theorem clockEdges_sampled (v : Bool) (m : Nat) (s : State) :
    clockEdges v 2 { s with irqMeta := v, irqChain := List.replicate m v } =
      { s with irqMeta := v, irqChain := List.replicate m v, irqS := v, irqPrev := v,
               irqPend := s.irqPend || (s.irqEn && v && !s.irqS) } := by
  simp [clockEdges, clockEdge, syncOut_replicate, syncShift_replicate, pendNext, edgeSeen,
    Bool.and_comm _ s.irqEn, Bool.and_assoc]

theorem syncStages_of_wf {c : Config} (h : c.wf = true) : ∃ m, c.syncStages = m + 2 := by
  simp only [Config.wf, Bool.and_eq_true, decide_eq_true_eq] at h
  exact ⟨c.syncStages - 2, by omega⟩

/-- The synchroniser, driven to a level where it had settled: an edge from 0 to 1 is seen on the way. -/
theorem lineTo_settled {s : State} (v : Bool) (hwf : s.cfg.wf = true) (hs : settled s) :
    lineTo v s = holdLevel v (s.irqPend || (s.irqEn && v && !s.irqS)) s := by
  obtain ⟨hmeta, hprev, hchain⟩ := hs
  obtain ⟨m, hm⟩ := syncStages_of_wf hwf
  have hbits : s.irqMeta :: s.irqChain = List.replicate 0 v ++ List.replicate (m + 1) s.irqS := by
    rw [hmeta, hchain, hm]; rfl
  have hfill := clockEdges_fill hbits (m := m) (Nat.zero_add _) rfl hprev
  rw [lineTo, hm, clockEdges_add v (m + 1) 2, hfill, clockEdges_sampled, holdLevel, hm]
  rfl

/-- The level that is there already moves nothing. -/
theorem lineTo_same {s : State} (hwf : s.cfg.wf = true) (hs : settled s) : lineTo s.irqS s = s := by
  rw [lineTo_settled s.irqS hwf hs, Bool.and_assoc, Bool.and_not_self, Bool.and_false, Bool.or_false,
    holdLevel_self hs]

/-- Settles O23: the due line drives the level, and a level that is there already moves nothing. -/
theorem lineAbstractForm : Obligations.LineAbstractForm := by
  intro s v later hwf hs hscript
  have hstep : step s = .next (lineTo v (dropItem s)) := step_due hscript rfl
  rw [dropItem_eq hscript] at hstep
  refine ⟨hstep.trans (congrArg _ (lineTo_settled v hwf hs)), fun hv => hstep.trans (congrArg _ ?_)⟩
  rw [hv]
  exact lineTo_same (s := { s with env := { s.env with script := later } }) hwf hs

/-! ## EDGE and FRAME_IN (30_encoding.md R115) -/

theorem onlyLine.trans {s t u : State} (hst : onlyLine s t) (htu : onlyLine t u) : onlyLine s u := by
  unfold onlyLine at htu ⊢
  rw [hst] at htu
  exact htu

theorem lineTo_onlyLine (v : Bool) (s : State) : onlyLine s (lineTo v s) := clockEdges_frame v _ s

theorem edge_onlyLine (s : State) : onlyLine s (lineTo true (lineTo false s)) :=
  onlyLine.trans (lineTo_onlyLine false s) (lineTo_onlyLine true _)

/-- Down and up again: an active edge whatever the level was. -/
theorem edge_settled {s : State} (hwf : s.cfg.wf = true) (hs : settled s) :
    lineTo true (lineTo false s) = holdLevel true (s.irqPend || s.irqEn) s := by
  rw [lineTo_settled false hwf hs, lineTo_settled (s := holdLevel false _ s) true hwf (holdLevel_settled ..)]
  simp [holdLevel]

/-- Settles O24: EDGE is two lines, FRAME_IN the same two after the replies are listed. -/
theorem edgeAndFrameIn : Obligations.EdgeAndFrameIn := by
  intro s bytes
  refine ⟨⟨_, rfl, edge_onlyLine s⟩, ⟨_, rfl, edge_onlyLine (addReplies bytes s)⟩, fun hwf hs => ⟨?_, ?_⟩⟩
  · exact congrArg Host.Outcome.next (edge_settled hwf hs)
  · exact congrArg Host.Outcome.next (edge_settled (s := addReplies bytes s) hwf hs)

/-! ## IRQ_LVL and code 0 -/

/-- Settles O21: the one records an event, the other nothing. -/
theorem levelReadAndNoOperation : Obligations.LevelReadAndNoOperation := fun _ => ⟨rfl, rfl⟩

end Sys2Proof.Machine
end

section
/-! The family of 30_encoding.md, the frame of WRFRAME (O11): a transmit shuttle over the header and what stands behind
it, between the assertion and the release of chip-select. -/

namespace Sys2Proof.Machine

/-! ## What a transmit shuttle reads -/

theorem bytesFrom_add (s : State) (sp : Space) (i m n : Nat) :
    s.bytesFrom sp i (m + n) = s.bytesFrom sp i m ++ s.bytesFrom sp (i + m) n := by
  simp [State.bytesFrom, List.range_add, Nat.add_assoc, Function.comp_def]

/-- Where the first bytes are stored, they come first and are followed by what stood behind them. -/
theorem bytesFrom_store_append (s : State) (sp : Space) (i n : Nat) (bs : List Byte) :
    (s.store sp i bs).bytesFrom sp i (bs.length + n) = bs ++ s.bytesFrom sp (i + bs.length) n := by
  rw [bytesFrom_add, bytesFrom_store]
  refine congrArg (bs ++ ·) (List.map_congr_left fun k _ => ?_)
  rw [bufByte_store, if_neg (by omega)]

/-- What a stored header leaves of TX: its five bytes, and everything behind them. -/
theorem bufByte_store_header (s : State) (tag hi lo : Byte) (j : Nat) :
    (s.store .tx 0 (headerBytes tag hi lo)).bufByte .tx j =
      if j < 5 then headerByte (headerBytes tag hi lo) j else s.bufByte .tx j := by
  rw [bufByte_store]
  simp [headerBytes, headerByte]

/-! ## WRFRAME in its two parts (30_encoding.md R90, R91; log 19) -/

theorem frameTotal_toNat (hi lo : Byte) : (frameTotal hi lo).toNat = 5 + 256 * hi.toNat + lo.toNat := by
  have := hi.isLt
  have := lo.isLt
  rw [frameTotal, BitVec.toNat_add, BitVec.zeroExtend_eq_setWidth, BitVec.toNat_setWidth, toNat_append_bytes,
    show (5 : Count).toNat = 5 from rfl]
  omega

/-- The state in which the first byte of the frame is sent: chip-select asserted, the header in place. -/
def frameStart (tag hi lo : Byte) (s : State) : State := csAssert (s.store .tx 0 (headerBytes tag hi lo))

/-- One byte of the frame; the last releases chip-select. -/
def frameMove (hi lo : Byte) (s : State) : Result :=
  whenDone txDone csDeassert (exec (.shuttleTx 0 (frameTotal hi lo)) s)

theorem frameStart_eq (tag hi lo : Byte) {s : State} (hcs : s.cs = false) :
    frameStart tag hi lo s =
      { s.store .tx 0 (headerBytes tag hi lo) with cs := true, trace := .csUp :: s.trace } := by
  rw [frameStart, csAssert_eq, store_cs, hcs]
  rfl

section
variable (tag hi lo : Byte) (s : State)

@[simp] theorem frameStart_cfg : (frameStart tag hi lo s).cfg = s.cfg := by simp [frameStart, csAssert_eq]
@[simp] theorem frameStart_env : (frameStart tag hi lo s).env = s.env := by simp [frameStart, csAssert_eq]
@[simp] theorem frameStart_xReq : (frameStart tag hi lo s).xReq = s.xReq := by simp [frameStart, csAssert_eq]
@[simp] theorem frameStart_txOpen : (frameStart tag hi lo s).txOpen = s.txOpen := by simp [frameStart, csAssert_eq]

end

theorem exec_wrframe (tag hi lo : Byte) (s : State) :
    exec (.wrframe tag hi lo) s = frameMove hi lo (if s.txOpen then s else frameStart tag hi lo s) := by
  have hdone : ∀ u : State, (if u.txOpen then u else csDeassert u) = if txDone u then csDeassert u else u := by
    intro u
    cases h : u.txOpen <;> simp [txDone, h]
  exact congrArg Host.Outcome.next (hdone _)

/-- A shuttle with more than one byte left stays open, and counts off one byte at most. -/
theorem shuttleTx_stays {base m : Nat} {n : Count} {s : State} (hopen : s.txOpen = true)
    (hm : m + 1 < s.txRem.toNat) :
    (shuttleTx base n s).txOpen = true ∧ m < (shuttleTx base n s).txRem.toNat := by
  obtain ⟨k, hk⟩ : ∃ k, s.txRem.toNat = k + 1 + 1 := ⟨s.txRem.toNat - 2, by omega⟩
  have hrem : s.txRem = if s.txOpen then s.txRem else n := (if_pos hopen).symm
  cases ha : s.env.answer? with
  | none =>
    rw [shuttleTx_wait hrem (count_ne_zero hk) ha, raiseFromTx_eq]
    exact ⟨rfl, by show m < s.txRem.toNat; omega⟩
  | some a =>
    rw [shuttleTx_ack hrem (count_ne_zero hk) ha]
    refine ⟨decide_eq_true (count_notLast hk), ?_⟩
    show m < (s.txRem - 1).toNat
    rw [count_pred hk]
    omega

/-- While bytes are left WRFRAME goes on with its shuttle and does not start again. -/
theorem iterate_wrframe_open {tag hi lo : Byte} {m : Nat} {s : State} (hopen : s.txOpen = true)
    (hm : m < s.txRem.toNat) :
    iterate (exec (.wrframe tag hi lo)) (m + 1) s = iterate (frameMove hi lo) (m + 1) s := by
  induction m generalizing s with
  | zero => simp only [iterate, exec_wrframe, hopen, if_true]
  | succ m ih =>
    obtain ⟨hstays, hleft⟩ := shuttleTx_stays (base := 0) (n := frameTotal hi lo) hopen hm
    have hmove : frameMove hi lo s = .next (shuttleTx 0 (frameTotal hi lo) s) := by
      simp [frameMove, exec, execShuttleTx, txDone, hstays]
    have hexec : exec (.wrframe tag hi lo) s = .next (shuttleTx 0 (frameTotal hi lo) s) := by
      rw [exec_wrframe, if_pos hopen, hmove]
    rw [iterate_succ hexec, iterate_succ hmove, ih hstays hleft]

/-- What the whole frame leaves: the shuttle's range over the start, with chip-select released. -/
theorem frame_sent {s t : State} {tag hi lo : Byte} {n : Nat} (hclosed : s.txOpen = false) (hcs : s.cs = false)
    (h : SentRange 0 (5 + n) (frameStart tag hi lo s) t) :
    (csDeassert t).trace = [.csDown] ++ exchanges ([tag, hi, lo, 0x00, 0x00] ++ s.bytesFrom .tx 5 n)
      (s.env.gives (5 + n)) ++ [.csUp] ++ s.trace ∧
    csDeassert t = { s.store .tx 0 (headerBytes tag hi lo) with
      txRem := 0, xOut := t.xOut, xIn := t.xIn, trace := (csDeassert t).trace, env := s.env.afterGiving (5 + n) } := by
  have hstart := frameStart_eq tag hi lo hcs
  have hasserted : t.cs = true := by rw [h.frame, hstart]
  have hbytes : (frameStart tag hi lo s).bytesFrom .tx 0 (5 + n) =
      [tag, hi, lo, 0x00, 0x00] ++ s.bytesFrom .tx 5 n := by
    rw [hstart]
    exact bytesFrom_store_append s .tx 0 n (headerBytes tag hi lo)
  refine ⟨?_, ?_⟩
  · rw [csDeassert_eq, hasserted, h.trace, hbytes, frameStart_env, hstart]
    simp
  · rw [csDeassert_eq, h.frame, hstart]
    simp [hclosed, hcs]

section
variable {s : State} (tag : Byte) {hi lo : Byte} {n : Nat} (hn : (frameTotal hi lo).toNat = n + 5)
  (hclosed : s.txOpen = false) (hx : s.xReq = false) (hgive : s.env.canGive (n + 5))
include hn hclosed hx hgive

/-- The first micro-step asserts chip-select, places the header and sends its first byte. -/
theorem wrframe_first : ∃ rest, exec (.wrframe tag hi lo) s = .next
    (sendByte (frameTotal hi lo) tag ((s.env.gives (n + 5)).headD 0) rest (frameStart tag hi lo s)) := by
  obtain ⟨r, rest, ha, _, hgives, _⟩ := Env.canGive_succ hgive
  have htag : (frameStart tag hi lo s).bufByte .tx (0 + cursor (frameTotal hi lo) (frameTotal hi lo)) = tag := by
    rw [cursor_self, frameStart, csAssert_eq]
    exact bufByte_store s .tx 0 0 (headerBytes tag hi lo)
  have hsend := shuttleTx_prompt (s := frameStart tag hi lo s) (base := 0) (n := frameTotal hi lo) (r := r)
    (rest := rest) (by simp [hclosed]) (count_ne_zero hn) (by simp [hx]) (by simp [ha]) (by simp [cursor_self])
  have hopen := sendByte_open hn tag r rest (frameStart tag hi lo s)
  refine ⟨rest, ?_⟩
  rw [exec_wrframe, hclosed, frameMove, if_neg Bool.false_ne_true, hsend, htag, hgives, whenDone_next]
  simp [txDone, hopen]

/-- All micro-steps together are one transmit shuttle that starts with chip-select asserted and ends with its
release. -/
theorem wrframe_all (hcap : n + 5 ≤ s.cfg.txCap) :
    ∃ t, repeatExec (.wrframe tag hi lo) (n + 5) s = .next (csDeassert t) ∧
      SentRange 0 (n + 5) (frameStart tag hi lo s) t := by
  obtain ⟨rest, hfirst⟩ := wrframe_first tag hn hclosed hx hgive
  have hmove : frameMove hi lo (frameStart tag hi lo s) = exec (.wrframe tag hi lo) s := by
    rw [exec_wrframe, hclosed, if_neg Bool.false_ne_true]
  have hopen := sendByte_open hn tag ((s.env.gives (n + 5)).headD 0) rest (frameStart tag hi lo s)
  obtain ⟨t, hrun, hsent⟩ := iterate_shuttleTx (F := frameMove hi lo) (f := csDeassert) (At := fun _ => True)
    (base := 0) (n := frameTotal hi lo) (rem := frameTotal hi lo) (m := n + 4) (s := frameStart tag hi lo s)
    (fun _ _ => rfl) (fun _ _ _ _ _ h => h) trivial (by simp [hclosed]) hn (Nat.le_refl _)
    (by rw [frameStart_cfg]; omega) (by simp [hx]) (by simpa using hgive)
  rw [cursor_self] at hsent
  refine ⟨t, ?_, hsent⟩
  have hleft : (frameTotal hi lo - 1).toNat = n + 4 := count_pred hn
  rw [← iterate_exec, iterate_succ hfirst,
    iterate_wrframe_open hopen (by show _ < (frameTotal hi lo - 1).toNat; omega), ← iterate_succ (hmove.trans hfirst)]
  exact hrun

end

/-- Settles O11: the first micro-step and the whole shuttle, read off in the trace, the buffers and the registers. -/
theorem wrframeSendsFrame : Obligations.WrframeSendsFrame := by
  intro s tag hi lo n hn hcap hclosed hx hcs hgive
  obtain ⟨k, rfl⟩ : ∃ k, n = k + 5 := ⟨n - 5, by omega⟩
  have htotal : (frameTotal hi lo).toNat = k + 5 := (frameTotal_toNat hi lo).trans hn.symm
  obtain ⟨rest, hfirst⟩ := wrframe_first tag htotal hclosed hx hgive
  obtain ⟨t, hall, hsent⟩ := wrframe_all tag htotal hclosed hx hgive hcap
  rw [Nat.add_comm k 5] at hsent
  obtain ⟨htrace, hframe⟩ := frame_sent hclosed hcs hsent
  have hstart := frameStart_eq tag hi lo hcs
  refine ⟨⟨_, hfirst, by rw [hstart]; rfl, sendByte_open htotal .., count_pred htotal, by rw [hstart]; rfl⟩,
    csDeassert t, hall, by rw [csDeassert_eq], ?_, ?_, fun j => ?_, fun j => by rw [hframe]; rfl, ?_⟩
  · rw [hframe]; exact hclosed
  · rw [htrace, Nat.add_comm k 5, Nat.add_sub_cancel_left]
  · rw [hframe]
    exact bufByte_store_header s tag hi lo j
  · rw [Nat.add_comm k 5, hframe]
    rfl

end Sys2Proof.Machine
end

section
/-! The family of 30_encoding.md, the frame codec: BUILD_HDR (O8), DECODE_HDR (O9) and the read headers (O10). -/

namespace Sys2Proof.Machine

/-! ## The write header in the natural numbers (R92 to R94) -/

theorem hiByte_toNat (v : Half) : (hiByte v).toNat = v.toNat / 256 := by
  have := toNat_bytes v
  have := (loByte v).isLt
  omega

theorem loByte_toNat (v : Half) : (loByte v).toNat = v.toNat % 256 := by
  have := toNat_bytes v
  have := (loByte v).isLt
  omega

theorem writePad_toNat (len : Half) : (writePad len).toNat = padOf len.toNat := by
  unfold writePad padOf
  split <;> rfl

theorem padOf_le (n : Nat) : padOf n ≤ 1 := by unfold padOf; split <;> decide

theorem padded_odd (n : Nat) : (n + padOf n) % 2 = 1 := by unfold padOf; split <;> omega

/-- The length field fits its 16 bits: the largest length is odd. -/
theorem padded_lt (len : Half) : len.toNat + padOf len.toNat < 65536 := by
  have := len.isLt
  unfold padOf
  split <;> omega

theorem lengthField_toNat (len : Half) : (lengthField len).toNat = len.toNat + padOf len.toNat := by
  have hfit := padded_lt len
  have hpad := padOf_le len.toNat
  rw [lengthField, BitVec.toNat_add, BitVec.zeroExtend_eq_setWidth, BitVec.toNat_setWidth, writePad_toNat]
  omega

theorem writeTotal_toNat (len : Half) : (writeTotal len).toNat = 5 + len.toNat + padOf len.toNat := by
  have hfit := padded_lt len
  have hpad := padOf_le len.toNat
  simp only [writeTotal, BitVec.toNat_add, BitVec.zeroExtend_eq_setWidth, BitVec.toNat_setWidth, writePad_toNat,
    show (5 : Count).toNat = 5 from rfl]
  omega

/-- Settles O8: the header is stored at index 0, and its length field is that of L + pad. -/
theorem buildHdrWritesHeader : Obligations.BuildHdrWritesHeader := by
  intro s len
  have hbyte := bufByte_store_header { s with pad := writePad len, txTot := writeTotal len } s.cfg.wrTag
    (hiByte (lengthField len)) (loByte (lengthField len))
  refine ⟨padded_lt len, padded_odd len.toNat, _, rfl, writePad_toNat len, writeTotal_toNat len, hbyte 0, ?_, ?_,
    hbyte 3, hbyte 4, fun j hj => (hbyte j).trans (if_neg (by omega)), fun _ => rfl, rfl⟩
  · exact (congrArg BitVec.toNat (hbyte 1)).trans ((hiByte_toNat _).trans (by rw [lengthField_toNat]))
  · exact (congrArg BitVec.toNat (hbyte 2)).trans ((loByte_toNat _).trans (by rw [lengthField_toNat]))

/-! ## The read header in the natural numbers (R97, R101, R102) -/

theorem dataLen_toNat (c : Config) (h : List Byte) :
    (dataLen c h).toNat =
      (headerByte h c.dataLenOff.val).toNat + 256 * (headerByte h (c.dataLenOff.val + 1)).toNat :=
  (toNat_append_bytes _ _).trans (Nat.add_comm _ _)

theorem evtLen_zero {c : Config} {h : List Byte} (h0 : headerByte h c.evtLenOff.val = 0) : evtLen c h = none :=
  if_pos h0

theorem evtLen_pos {c : Config} {h : List Byte} (h0 : headerByte h c.evtLenOff.val ≠ 0) :
    ∃ len, evtLen c h = some len ∧ len.toNat = (headerByte h c.evtLenOff.val).toNat - 1 := by
  refine ⟨_, if_neg h0, ?_⟩
  have hpos : (headerByte h c.evtLenOff.val).toNat ≠ 0 := fun hz => h0 (BitVec.eq_of_toNat_eq hz)
  have hlt := (headerByte h c.evtLenOff.val).isLt
  have hone : (1 : Byte).toNat = 1 := rfl
  rw [BitVec.zeroExtend_eq_setWidth, BitVec.toNat_setWidth, BitVec.toNat_sub_of_le (BitVec.le_def.mpr (by omega)),
    hone]
  omega

theorem readCount_toNat (c : Config) (len : Half) :
    (readCount c len).toNat = len.toNat + readPadOf c len.toNat := by
  have hlt := len.isLt
  have hzero : (0 : Count).toNat = 0 := rfl
  have hone : (1 : Count).toNat = 1 := rfl
  unfold readCount readPadOf
  rw [BitVec.toNat_add, BitVec.zeroExtend_eq_setWidth, BitVec.toNat_setWidth]
  split <;> omega

theorem headerByte_rxHeader (s : State) {i : Nat} (hi : i < 10) : headerByte s.rxHeader i = s.bufByte .rx i := by
  simp [headerByte, State.rxHeader, hi]

section
variable {c : Config} {h : List Byte}

theorem headerKind_data (ht : headerByte h c.typeOff.val = c.tagData) : headerKind c h = .data := if_pos ht

theorem headerKind_event (hd : headerByte h c.typeOff.val ≠ c.tagData) (he : headerByte h c.typeOff.val = c.tagEvent) :
    headerKind c h = .event := (if_neg hd).trans (if_pos he)

theorem headerKind_other (hd : headerByte h c.typeOff.val ≠ c.tagData) (he : headerByte h c.typeOff.val ≠ c.tagEvent) :
    headerKind c h = .other := (if_neg hd).trans (if_neg he)

theorem decodeHeader_data (hk : headerKind c h = .data) :
    decodeHeader c h = some (.data, dataLen c h, readCount c (dataLen c h)) := by simp only [decodeHeader, hk]

theorem decodeHeader_event (hk : headerKind c h = .event) :
    decodeHeader c h = (evtLen c h).map fun len => (.event, len, readCount c len) := by simp only [decodeHeader, hk]

theorem decodeHeader_other (hk : headerKind c h = .other) : decodeHeader c h = some (.other, 0, 0) := by
  simp only [decodeHeader, hk]

end

theorem exec_decodeHdr_some {s : State} {kind : FrameKind} {len : Half} {n : Count}
    (h : decodeHeader s.cfg s.rxHeader = some (kind, len, n)) :
    exec .decodeHdr s = .next (setDecoded kind len n s) := by
  show execDecodeHdr s = _
  simp only [execDecodeHdr, h]

theorem exec_decodeHdr_none {s : State} (h : decodeHeader s.cfg s.rxHeader = none) :
    exec .decodeHdr s = .fault .eventLengthZero := by
  show execDecodeHdr s = _
  simp only [execDecodeHdr, h]

/-- Settles O9: the header in RX, decoded for each kind. -/
theorem decodeHdrSetsRegisters : Obligations.DecodeHdrSetsRegisters := by
  intro s
  have hbyte : ∀ i < 10, s.bufByte .rx i = headerByte s.rxHeader i := fun i hi => (headerByte_rxHeader s hi).symm
  intro h tag raw
  have htag : tag = headerByte s.rxHeader s.cfg.typeOff.val := hbyte _ s.cfg.typeOff.isLt
  have hraw : raw = headerByte s.rxHeader s.cfg.evtLenOff.val := hbyte _ s.cfg.evtLenOff.isLt
  have hlo : h s.cfg.dataLenOff.val = headerByte s.rxHeader s.cfg.dataLenOff.val := hbyte _ (by omega)
  have hhi : h (s.cfg.dataLenOff.val + 1) = headerByte s.rxHeader (s.cfg.dataLenOff.val + 1) := hbyte _ (by omega)
  rw [htag, hraw, hlo, hhi]
  refine ⟨fun hd => ?_, fun hd he h0 => ?_, fun hd he h0 => ?_, fun hd he => ?_⟩
  · exact ⟨_, exec_decodeHdr_some (decodeHeader_data (headerKind_data hd)), rfl, dataLen_toNat .., readCount_toNat ..,
      fun _ => rfl, fun _ => rfl, rfl⟩
  · obtain ⟨len, hlen, hval⟩ := evtLen_pos h0
    have hdecode := (decodeHeader_event (headerKind_event hd he)).trans (by rw [hlen, Option.map_some])
    exact ⟨_, exec_decodeHdr_some hdecode, rfl, hval, readCount_toNat .., fun _ => rfl, fun _ => rfl, rfl⟩
  · have hdecode := (decodeHeader_event (headerKind_event hd he)).trans (by rw [evtLen_zero h0, Option.map_none])
    exact exec_decodeHdr_none hdecode
  · exact ⟨_, exec_decodeHdr_some (decodeHeader_other (headerKind_other hd he)), rfl, rfl, rfl, fun _ => rfl,
      fun _ => rfl, rfl⟩

/-- A header of ten bytes, stored at the start of RX. -/
theorem bufByte_store_ten (s : State) {h : List Byte} (hlen : h.length = 10) (j : Nat) :
    (s.store .rx 0 h).bufByte .rx j = if j < 10 then headerByte h j else s.bufByte .rx j := by
  rw [bufByte_store]
  simp [headerByte, hlen]

theorem exec_rdframeEvent_some {s : State} {h : List Byte} {len : Half} (hl : evtLen s.cfg h = some len) :
    exec (.rdframeEvent h) s = .next (setDecoded .event len (readCount s.cfg len) (s.store .rx 0 h)) := by
  show execRdframeEvent h s = _
  simp only [execRdframeEvent, hl]

theorem exec_rdframeEvent_none {s : State} {h : List Byte} (hl : evtLen s.cfg h = none) :
    exec (.rdframeEvent h) s = .fault .eventLengthZero := by
  show execRdframeEvent h s = _
  simp only [execRdframeEvent, hl]

/-- Settles O10: the header is stored, and its length is that of its kind. -/
theorem readHeadersDecode : Obligations.ReadHeadersDecode := by
  intro s h
  refine ⟨fun hwf => ?_, fun hwf h0 => ?_, fun _ h0 => exec_rdframeEvent_none (evtLen_zero h0), fun hwf => ?_⟩
  · have hlen : h.length = 10 := (rdframe_wf_iff (kind := .data).mp hwf).1
    exact ⟨_, rfl, rfl, dataLen_toNat s.cfg h, readCount_toNat .., bufByte_store_ten s hlen, fun _ => rfl, rfl⟩
  · have hlen : h.length = 10 := (rdframe_wf_iff (kind := .event).mp hwf).1
    obtain ⟨len, hl, hval⟩ := evtLen_pos h0
    exact ⟨_, exec_rdframeEvent_some hl, rfl, hval, readCount_toNat .., bufByte_store_ten s hlen, fun _ => rfl, rfl⟩
  · have hlen : h.length = 10 := (rdframe_wf_iff (kind := .other).mp hwf).1
    exact ⟨_, rfl, rfl, rfl, rfl, bufByte_store_ten s hlen, fun _ => rfl, rfl⟩

end Sys2Proof.Machine
end

section
/-! The family of 30_encoding.md, the ports: the handshakes (O13 to O15), WRITE and the commands held (O25, O27), the
halted block (O33), and the labels whose micro-step is a handshake (O41). -/

namespace Sys2Proof.Machine

/-! ## One exchange (40_bus_driver.md R123) -/

/-- Settles O13: a listed and an unlisted byte are the two forms of an answer; without one the request stands. -/
theorem exchangeHandshake : Obligations.ExchangeHandshake := by
  intro s b out hout
  subst hout
  refine ⟨fun r rest hr => ?_, fun r hr ha => ?_, fun hr ha => ?_⟩
  · exact congrArg Host.Outcome.next (xchg_ack (answer_listed hr))
  · have hanswer : s.env.answer? = some (r, s.env.replies) := by rw [answer_unlisted hr, ha, hr]; rfl
    exact congrArg Host.Outcome.next (xchg_ack hanswer)
  · have hanswer : s.env.answer? = none := by rw [answer_unlisted hr, ha]; rfl
    exact ⟨congrArg Host.Outcome.next (xchg_wait hanswer), fun b' => congrArg Host.Outcome.next
      (xchg_held (s := { s with xReq := true, xOut := if s.xReq then s.xOut else b }) rfl hanswer)⟩

/-! ## One delay (R124) -/

theorem acks_silent {p : Peer} (h : p = .silent) : p.acks = false := by rw [h]; rfl

section
variable {s : State} (n : Half)

theorem delayUs_ack (hd : s.dReq = true) (ha : s.env.timer.acks = true) :
    delayUs n s = { s with dReq := false, env := { s.env with timer := s.env.timer.taken } } := by
  simp [delayUs_cases, hd, ha]

/-- A delay that stands without its acknowledgement changes nothing. -/
theorem delayUs_held (hd : s.dReq = true) (ha : s.env.timer.acks = false) : delayUs n s = s := by
  simp only [delayUs, hd, ha, if_true, Bool.false_eq_true, if_false]

end

/-- Settles O14: the request is new or stands, and the timer acknowledges or is silent. -/
theorem delayHandshake : Obligations.DelayHandshake := by
  intro s n
  refine ⟨fun hd ha => ?_, fun hd hq => ?_, fun hd ha => ?_, fun hd hq => ?_⟩
  · exact congrArg Host.Outcome.next (by simp [delayUs_cases, hd, ha])
  · exact congrArg Host.Outcome.next (by simp [delayUs_cases, hd, acks_silent hq])
  · exact congrArg Host.Outcome.next (delayUs_ack n hd ha)
  · exact congrArg Host.Outcome.next (delayUs_held n hd (acks_silent hq))

/-! ## One delivery (43_transport_read.md R204, R205) -/

section
variable {s : State} (ptr : Nat) (len : Half)

theorem deliver_raised (hv : s.sValid = false) (ha : s.env.sink.acks = false) :
    deliver ptr len s =
      { s with sValid := true, sPtr := ptr, sLen := len, trace := .deliver ptr len :: s.trace } := by
  simp [deliver_cases, hv, ha]

theorem deliver_ack (hv : s.sValid = true) (ha : s.env.sink.acks = true) :
    deliver ptr len s = { s with sValid := false, env := { s.env with sink := s.env.sink.taken } } := by
  simp [deliver_cases, hv, ha]

/-- A delivery that stands without its acknowledgement changes nothing. -/
theorem deliver_held (hv : s.sValid = true) (ha : s.env.sink.acks = false) : deliver ptr len s = s := by
  simp only [deliver, hv, ha, if_true, Bool.false_eq_true, if_false]

end

/-- I_RD9 delivers the payload and returns once it is acknowledged (R204). -/
theorem step_rd9 {s : State} (h : PathAt .rd9 s) :
    step s = whenDone deliverDone irqReturn (.next (deliver 10 s.rxLen s)) := by
  rw [h.step_eq nofun]
  simp only [iStep, h.ipc]
  rfl

/-- Settles O15: as O14, for the sink; at I_RD9 the step is that delivery. -/
theorem deliverHandshake : Obligations.DeliverHandshake := by
  intro s ptr len
  refine ⟨fun hv ha => ?_, fun hv hq => ?_, fun hv ha => ?_, fun hv hq => ?_, fun hs hi hv => ?_,
    fun hs hi hv hq => ?_⟩
  · exact congrArg Host.Outcome.next (by simp [deliver_cases, hv, ha])
  · exact congrArg Host.Outcome.next (deliver_raised ptr len hv (acks_silent hq))
  · exact congrArg Host.Outcome.next (deliver_ack ptr len hv ha)
  · exact congrArg Host.Outcome.next (deliver_held ptr len hv (acks_silent hq))
  · rw [step_rd9 ⟨hs, hi⟩]
    cases ha : s.env.sink.acks with
    | true => rw [deliver_ack 10 s.rxLen hv ha]; rfl
    | false => rw [deliver_held 10 s.rxLen hv ha, whenDone_next]; simp [deliverDone, hv]
  · rw [step_rd9 ⟨hs, hi⟩, deliver_raised 10 s.rxLen hv (acks_silent hq)]
    rfl

/-! ## WRITE and the commands held (30_encoding.md R108, R115) -/

/-- Settles O27: each command is put on the port. -/
theorem commandsHeld : Obligations.CommandsHeld :=
  fun _ _ hr => ⟨congrArg Host.Outcome.next (hostCommand_held hr), congrArg Host.Outcome.next (hostCommand_held hr),
    congrArg Host.Outcome.next (hostCommand_held hr)⟩

/-- The submission changes no byte of the buffers, accepted or not. -/
theorem bufByte_submit (len : Half) (s : State) (sp : Space) (j : Nat) :
    (hostCommand 2 len (acceptWrite len) s).bufByte sp j = s.bufByte sp j := by
  unfold hostCommand
  split <;> rfl

theorem cmdReady_halted {s : State} (h : s.halted = true) : s.cmdReady = false := by simp [State.cmdReady, h]

/-- Settles O25: the store, then the command on the port. -/
theorem writeStoresAndSubmits : Obligations.WriteStoresAndSubmits := by
  intro s len payload
  have hexec : exec (.write len payload) s =
      andThen (hostCommand 2 len (acceptWrite len)) (hostStore .tx 5 payload s) := rfl
  rw [hexec]
  refine ⟨fun hfit => ?_, fun hover => ?_⟩
  · have hstore : hostStore .tx 5 payload s = .next (if s.halted then s else s.store .tx 5 payload) := if_pos hfit
    have hready : (s.store .tx 5 payload).cmdReady = s.cmdReady := rfl
    refine ⟨_, congrArg (andThen _) hstore, fun hh j => ?_, fun hh j => ?_, fun j => ?_, fun hr => ?_, fun hr => ?_⟩
    · rw [bufByte_submit, if_neg (by simp [hh])]
      exact bufByte_store s .tx 5 j payload
    · rw [bufByte_submit, if_pos hh]
    · rw [bufByte_submit]
      split <;> rfl
    · obtain ⟨_, _, _, hrun⟩ := (cmdReady_iff s).mp hr
      rw [if_neg (by simp [hrun]), hostCommand_ready (hready.trans hr)]
      rfl
    · split
      · rw [hostCommand_held hr]; rfl
      · rw [hostCommand_held (hready.trans hr)]; rfl
  · rcases hostStore_cases .tx 5 payload s with ⟨hfit, _⟩ | ⟨_, hstore⟩
    · rw [cap_tx] at hfit; omega
    · rw [hstore]; rfl

/-! ## The halted block (60_exceptions.md R221, R225) -/

/-- A step at which the environment does not act is HDST's own move, if need be behind a line `pass`. -/
theorem step_selfMove {s : State} (h : s.selfMove = true) :
    step s = seqStep s ∨ step s = seqStep (dropItem s) := by
  cases hscript : s.env.script with
  | nil => exact .inl (step_alone hscript)
  | cons item later =>
    cases hdue : s.isDue item.due with
    | false => exact .inl (step_notDue hscript hdue)
    | true =>
      have hpass : item.act = .pass := by simpa [State.selfMove, hscript, hdue] using h
      exact .inr (by rw [step_due hscript hdue, hpass]; rfl)

/-- Settles O33: HDST's own move is the fault. -/
theorem haltedBlockFaults : Obligations.HaltedBlockFaults := by
  intro s hh hself
  refine ⟨?_, cmdReady_halted hh, hh⟩
  rcases step_selfMove hself with hstep | hstep
  · rw [hstep, seqStep_halted hh]
  · rw [hstep, seqStep_halted ((dropItem_halted s).trans hh)]

/-! ## Waiting at a label (70_reset_and_hazards.md R261) -/

/-- W moves where I is at rest and cannot start. -/
theorem step_caller {s : State} (hs : runsAlone s) (hi : s.ipc = .rest)
    (hstart : s.irqPend = false ∨ inhibited s.wpc = true) (hw : s.wpc ≠ .rest) : step s = wStep s := by
  obtain ⟨hscript, hbus, hrun⟩ := hs
  have hnone : s.irqStart = false := by rcases hstart with h | h <;> simp [State.irqStart, h]
  rw [step_alone hscript, seqStep_caller hrun hbus hi hnone hw]

section
variable {s : State} {f : State → State} (hopen : s.txOpen = true) (h0 : s.txRem ≠ 0) (hx : s.xReq = true)
include hopen h0 hx

theorem whenDone_shuttleTx_wait (base : Nat) (n : Count) (ha : s.env.answer? = none) :
    whenDone txDone f (execShuttleTx base n s) = .next s := by
  obtain ⟨_, _, _, _, hwait⟩ := shuttleTxMicroStep s base n s.txRem _ (if_pos hopen).symm rfl
  have hexec : execShuttleTx base n s = .next s := hwait hopen h0 hx ha
  rw [hexec, whenDone_next]
  simp [txDone, hopen]

theorem whenDone_shuttleTx_ack (base : Nat) (n : Count) {r : Byte} {rest : List Byte}
    (ha : s.env.answer? = some (r, rest)) :
    whenDone txDone f (execShuttleTx base n s) = .next
      (let u := { s with txOpen := decide (s.txRem ≠ 1), txRem := s.txRem - 1, xReq := false, xIn := r,
                         env := { s.env with replies := rest }, trace := .exchange s.xOut r :: s.trace }
      if s.txRem = 1 then f u else u) := by
  obtain ⟨_, _, _, hack, _⟩ := shuttleTxMicroStep s base n s.txRem _ (if_pos hopen).symm rfl
  have hexec : execShuttleTx base n s = _ := hack r rest hopen h0 hx ha
  rw [hexec, whenDone_next]
  simp [txDone]

end

section
variable {s : State} {f : State → State} (hopen : s.rxOpen = true) (h0 : s.rxRem ≠ 0) (hx : s.xReq = true)
include hopen h0 hx

theorem whenDone_shuttleRx_wait (base : Nat) (n k0 : Count) (ha : s.env.answer? = none) :
    whenDone rxDone f (execShuttleRx base n k0 s) = .next s := by
  obtain ⟨_, _, _, _, _, hwait⟩ := shuttleRxMicroStep s base n k0 s.rxRem _ (if_pos hopen).symm rfl
  have hexec : execShuttleRx base n k0 s = .next s := hwait hopen h0 hx ha
  rw [hexec, whenDone_next]
  simp [rxDone, hopen]

theorem whenDone_shuttleRx_ack (base : Nat) (n k0 : Count) {i : Nat} (hi : i = base + (n.toNat - s.rxRem.toNat))
    {r : Byte} {rest : List Byte} (ha : s.env.answer? = some (r, rest)) (hcap : i ≤ s.cfg.rxCap) :
    ∃ u, whenDone rxDone f (execShuttleRx base n k0 s) = .next (if s.rxRem = 1 then f u else u) ∧
      (∀ j, u.bufByte .rx j = if j = i then r else s.bufByte .rx j) ∧
      u = { s with rxOpen := decide (s.rxRem ≠ 1), rxRem := s.rxRem - 1, xReq := false, xIn := r, rx := u.rx,
                   env := { s.env with replies := rest }, trace := .exchange s.xOut r :: s.trace } := by
  subst hi
  obtain ⟨_, _, _, _, hack, _⟩ := shuttleRxMicroStep s base n k0 s.rxRem _ (if_pos hopen).symm rfl
  obtain ⟨u, hexec, hbyte, _, hu⟩ := hack r rest hopen h0 hx ha hcap
  refine ⟨u, ?_, hbyte, hu⟩
  have hexec : execShuttleRx base n k0 s = .next u := hexec
  have hdone : rxDone u = decide (s.rxRem = 1) := by rw [rxDone, hu]; simp
  rw [hexec, whenDone_next, hdone]
  simp

end

section
variable {s : State} (hs : runsAlone s)
include hs

/-- The delays of the warm-up (42_transport_write.md R166, R168). -/
theorem step_warmUpDelay {here next : WLabel} (hi : s.ipc = .rest) (hp : s.irqPend = false) (hw : s.wpc = here)
    (hlabel : (here = .wu2 ∧ next = .wu3) ∨ (here = .wu4 ∧ next = .wu5)) :
    step s = whenDone delayDone (goW next) (.next (delayUs s.cfg.tWarm s)) := by
  rcases hlabel with ⟨rfl, rfl⟩ | ⟨rfl, rfl⟩ <;>
  · rw [step_caller hs hi (.inl hp) (hw ▸ nofun)]
    simp only [wStep, hw]
    rfl

/-- The transmit shuttles of W (R166, R168, R175). -/
theorem step_callerShuttle {here next : WLabel} (hi : s.ipc = .rest) (hp : s.irqPend = false ∨ here = .il1)
    (hw : s.wpc = here)
    (hlabel : (here = .wu3 ∧ next = .wu4) ∨ (here = .wu5 ∧ next = .wu6) ∨ (here = .il1 ∧ next = .il2)) :
    ∃ base n, step s = whenDone txDone (goW next) (execShuttleTx base n s) := by
  have hstart : s.irqPend = false ∨ inhibited s.wpc = true := hp.imp_right fun h => by rw [hw, h]; rfl
  rcases hlabel with ⟨rfl, rfl⟩ | ⟨rfl, rfl⟩ | ⟨rfl, rfl⟩ <;>
  · rw [step_caller hs hi hstart (hw ▸ nofun)]
    simp only [wStep, hw]
    exact ⟨_, _, rfl⟩

/-- The receive shuttles of I (43_transport_read.md R195, R200). -/
theorem step_readShuttle {here next : ILabel} {i : Nat} (hi : s.ipc = here)
    (hlabel : (here = .rd3 ∧ next = .rd4 ∧ i = 10 - s.rxRem.toNat) ∨
      (here = .rd6 ∧ next = .rd7 ∧ i = 10 + (s.rxN.toNat - s.rxRem.toNat))) :
    ∃ (base : Nat) (n k0 : Count), i = base + (n.toNat - s.rxRem.toNat) ∧
      step s = whenDone rxDone (goI next) (execShuttleRx base n k0 s) := by
  rcases hlabel with ⟨rfl, rfl, rfl⟩ | ⟨rfl, rfl, rfl⟩
  · refine ⟨0, 10, 0, (Nat.zero_add _).symm, ?_⟩
    rw [PathAt.step_eq ⟨hs, hi⟩ nofun]
    simp only [iStep, hi]
  · refine ⟨10, s.rxN, 10, rfl, ?_⟩
    rw [PathAt.step_eq ⟨hs, hi⟩ nofun]
    simp only [iStep, hi]

/-- The transmit shuttle of I (R207). -/
theorem step_wr1 (hi : s.ipc = .wr1) :
    step s = whenDone txDone (goI .wr2) (execShuttleTx s.txPtr s.txLen s) := by
  rw [PathAt.step_eq ⟨hs, hi⟩ nofun]
  simp only [iStep, hi]

end

/-- Settles O41: at each label the micro-step is one attempt of its handshake. -/
theorem handshakesHoldTheirLabel : Obligations.HandshakesHoldTheirLabel := by
  intro s hs
  refine ⟨fun here next hi hp hlabel hw hd => ?_, fun here next hi hp hlabel hw hopen h0 hx => ?_,
    fun hi hopen h0 hx => ?_, fun here next i hlabel hi hopen h0 hx => ?_⟩
  · rw [step_warmUpDelay hs hi hp hw hlabel]
    refine ⟨fun hq => ?_, fun ha => ?_⟩
    · rw [delayUs_held _ hd (acks_silent hq), whenDone_next]
      simp [delayDone, hd]
    · rw [delayUs_ack _ hd ha]
      rfl
  · obtain ⟨base, n, hstep⟩ := step_callerShuttle hs hi hp hw hlabel
    rw [hstep]
    refine ⟨whenDone_shuttleTx_wait hopen h0 hx base n, fun r rest ha => ?_⟩
    rw [whenDone_shuttleTx_ack hopen h0 hx base n ha]
    by_cases hlast : s.txRem = 1
    · simp only [hlast, if_true]; rfl
    · simp only [hlast, if_false, ← hw]
  · rw [step_wr1 hs hi]
    refine ⟨whenDone_shuttleTx_wait hopen h0 hx _ _, fun r rest ha => ?_⟩
    rw [whenDone_shuttleTx_ack hopen h0 hx _ _ ha]
    by_cases hlast : s.txRem = 1
    · simp only [hlast, if_true]; rfl
    · simp only [hlast, if_false, ← hi]
  · obtain ⟨base, n, k0, hindex, hstep⟩ := step_readShuttle hs hi hlabel
    rw [hstep]
    refine ⟨whenDone_shuttleRx_wait hopen h0 hx base n k0, fun r rest ha hcap => ?_⟩
    obtain ⟨u, hdone, hbyte, hu⟩ := whenDone_shuttleRx_ack (f := goI next) hopen h0 hx base n k0 hindex ha hcap
    refine ⟨_, hdone, fun j => ?_, ?_⟩
    · rw [← hbyte j]
      split <;> rfl
    · by_cases hlast : s.rxRem = 1
      · simp only [hlast, if_true]
        rw [hu, hlast]
        rfl
      · simp only [hlast, if_false, ← hi]
        simpa only [hlast] using hu

end Sys2Proof.Machine
end

section
/-! Settles the family of 40_bus_driver.md: CS_ASSERT and CS_DEASSERT (O12), and where the sequencers release
chip-select. -/

namespace Sys2Proof.Machine

/-! ## The steps but a reset -/

/-- The step at a boundary where no reset is due: a reset in the script that is not due lets HDST move. -/
theorem step_ensures_of_noReset {P : State → Prop} {s : State} (hr : s.resets = false) (hown : Ensures P (seqStep s))
    (hpass : ∀ item rest, s.env.script = item :: rest → Ensures P (seqStep (dropItem s)))
    (hissue : ∀ item rest word left i, s.env.script = item :: rest → item.act = .issue word →
      decode s.cfg word = .ok (i, left) → Ensures P (issueOp i (dropItem s)))
    (hact : ∀ a, a ≠ .reset → Ensures P (applyAction a (dropItem s))) : Ensures P (step s) := by
  by_cases hnext : ∃ item rest, s.env.script = item :: rest ∧ item.act = .reset
  · obtain ⟨item, rest, hscript, hreset⟩ := hnext
    have hdue : s.isDue item.due = false := by simpa [State.resets, hscript, hreset] using hr
    rw [step_notDue hscript hdue]
    exact hown
  · exact step_ensures hown hpass hissue fun item rest hscript =>
      hact item.act fun hreset => hnext ⟨item, rest, hscript, hreset⟩

/-! ## The operations that leave chip-select alone -/

/-- All operations but CS_ASSERT, CS_DEASSERT and the frame of WRFRAME (40_bus_driver.md R121, R122; log 19). -/
def leavesSelect : Instr → Bool
  | .csAssert | .csDeassert | .wrframe _ _ _ => false
  | _ => true

theorem clockEdges_cs (level : Bool) (n : Nat) (s : State) : (clockEdges level n s).cs = s.cs := by
  rw [clockEdges_frame]

theorem lineEdge_cs (s : State) : (lineTo true (lineTo false s)).cs = s.cs :=
  (clockEdges_cs true _ (lineTo false s)).trans (clockEdges_cs false _ s)

theorem hostCommand_cs {cmd : BitVec 2} {len : Half} {effect : State → State} (he : ∀ u, (effect u).cs = u.cs)
    (s : State) : (hostCommand cmd len effect s).cs = s.cs := by
  cases hr : s.cmdReady with
  | true => rw [hostCommand_ready hr]; exact he (withdraw s)
  | false => rw [hostCommand_held hr]; rfl

theorem exec_leavesSelect {i : Instr} (hi : leavesSelect i = true) (s : State) :
    Ensures (fun t => t.cs = s.cs) (exec i s) := by
  cases i with
  | csAssert | csDeassert | wrframe _ _ _ => cases hi
  | nocmd | onIrqPowerup | onIrqOther _ | onIrqIdle | onIrqWriteirq | irqEn | irqDis | irqLvl | uopNone => exact rfl
  | init => exact hostCommand_cs (effect := initStep) (fun _ => rfl) s
  | submitWrite len => exact hostCommand_cs (effect := acceptWrite len) (fun _ => rfl) s
  | cmdReserved => exact hostCommand_cs (fun _ => rfl) s
  | xchg b => exact (xchg_dataMove b s).cs
  | delayUs n => exact (delayUs_dataMove n s).cs
  | deliver ptr len => exact (deliver_dataMove ptr len s).cs
  | checkGuard sp site => exact (checkGuard_dataMove sp site s).cs
  | buildHdr len => exact (buildHdr_dataMove len s).imp fun _ => DataMove.cs
  | decodeHdr => exact (decodeHdr_dataMove s).imp fun _ => DataMove.cs
  | shuttleTx base n => exact (shuttleTx_dataMove base n s).cs
  | shuttleRx base n k0 => exact (shuttleRx_dataMove base n k0 s).imp fun _ => DataMove.cs
  | rdframeData h | rdframeOther h => exact store_cs s .rx 0 h
  | rdframeEvent h =>
    simp only [exec, execRdframeEvent]
    split
    · exact store_cs s .rx 0 h
    · trivial
  | edge => exact lineEdge_cs s
  | frameIn bytes => exact lineEdge_cs (addReplies bytes s)
  | write len payload =>
    exact (hostStore_dataMove .tx 5 payload s).andThen fun u hu =>
      (hostCommand_cs (effect := acceptWrite len) (fun _ => rfl) u).trans hu.cs

theorem environmental_leavesSelect {i : Instr} (h : environmental i = true) : leavesSelect i = true := by
  cases i with
  | csAssert | csDeassert | wrframe _ _ _ => cases h
  | _ => rfl

theorem decodeIrq_leavesSelect (code : BitVec 4) : leavesSelect (decodeIrq code) = true := by
  unfold decodeIrq
  split <;> rfl

/-- Outside reset the environment does not touch chip-select. -/
theorem applyAction_cs {a : Action} (ha : a ≠ .reset) (s : State) :
    Ensures (fun t => t.cs = s.cs) (applyAction a s) := by
  cases a with
  | reset => exact absurd rfl ha
  | host sp i bs => exact (hostStore_dataMove sp i bs s).imp fun _ => DataMove.cs
  | line v => exact clockEdges_cs v _ s
  | timerAck => show (if s.dReq then _ else s).cs = s.cs; split <;> rfl
  | ack => show (if s.sValid then _ else s).cs = s.cs; split <;> rfl
  | present _ _ | clk _ | reply _ | engine _ | timer _ | sink _ | issue _ | pass => exact rfl

/-! ## Where chip-select is released (R122) -/

/-- A move that releases chip-select leaves `state` Idle. -/
def ReleasesIntoIdle (s t : State) : Prop := s.cs = true → t.cs = false → t.state = .idle

section
variable {s t : State}

theorem ReleasesIntoIdle.of_kept (h : t.cs = s.cs) : ReleasesIntoIdle s t := fun hs ht =>
  absurd (hs.symm.trans (h.symm.trans ht)) (by decide)

theorem ReleasesIntoIdle.of_asserted (h : t.cs = true) : ReleasesIntoIdle s t := fun _ ht =>
  absurd (h.symm.trans ht) (by decide)

theorem ReleasesIntoIdle.of_idle (h : t.state = .idle) : ReleasesIntoIdle s t := fun _ _ => h

theorem exec_releases {i : Instr} (hi : leavesSelect i = true) (s : State) :
    Ensures (ReleasesIntoIdle s) (exec i s) := (exec_leavesSelect hi s).imp fun _ => .of_kept

/-- An operation that leaves chip-select alone, then a change that does too. -/
theorem andThen_releases {i : Instr} {f : State → State} (hi : leavesSelect i = true)
    (hf : ∀ u, (f u).cs = u.cs) : Ensures (ReleasesIntoIdle s) (andThen f (exec i s)) :=
  (exec_leavesSelect hi s).andThen fun u hu => .of_kept ((hf u).trans hu)

/-- The same where the change waits until the operation is done. -/
theorem whenDone_releases {i : Instr} {done : State → Bool} {f : State → State} (hi : leavesSelect i = true)
    (hf : ∀ u, (f u).cs = u.cs) : Ensures (ReleasesIntoIdle s) (whenDone done f (exec i s)) :=
  (exec_leavesSelect hi s).whenDone (fun u hu _ => .of_kept ((hf u).trans hu)) fun _ hu _ => .of_kept hu

end

/-- W releases chip-select at W_WU7 and W_IL3 only. -/
theorem wStep_releases (s : State) : Ensures (ReleasesIntoIdle s) (wStep s) := by
  cases hw : s.wpc with
  | wu1 | cr3 =>
    simp only [wStep, hw, execCsAssert, csAssert_eq]
    exact .of_asserted rfl
  | wu7 | il3 =>
    simp only [wStep, hw, execCsDeassert, csDeassert_eq]
    exact .of_idle rfl
  | rest | init | acc | br | cr2 => simp only [wStep, hw]; exact .of_kept rfl
  | spin | fin => simp only [wStep, hw]; split <;> exact .of_kept rfl
  | ckb => simp only [wStep, hw]; exact whenDone_releases (i := .checkGuard .tx .ckWb) rfl fun _ => rfl
  | hdr => simp only [wStep, hw]; exact andThen_releases (i := .buildHdr s.wrL) rfl fun _ => rfl
  | wu2 | wu4 => simp only [wStep, hw]; exact whenDone_releases (i := .delayUs s.cfg.tWarm) rfl fun _ => rfl
  | wu3 => simp only [wStep, hw]; exact whenDone_releases (i := .shuttleTx 0 4) rfl fun _ => rfl
  | wu5 => simp only [wStep, hw]; exact whenDone_releases (i := .shuttleTx 4 (s.txTot - 4)) rfl fun _ => rfl
  | wu6 | il2 => simp only [wStep, hw]; exact whenDone_releases (i := .checkGuard .tx .ckWe) rfl fun _ => rfl
  | cr1 => simp only [wStep, hw]; exact andThen_releases (i := .irqDis) rfl fun _ => rfl
  | cr4 => simp only [wStep, hw]; exact andThen_releases (i := .irqEn) rfl fun _ => rfl
  | il1 => simp only [wStep, hw]; exact whenDone_releases (i := .shuttleTx s.txPtr s.txLen) rfl fun _ => rfl

/-- I releases chip-select at I_RD8 and I_WR3 only. -/
theorem iStep_releases (s : State) : Ensures (ReleasesIntoIdle s) (iStep s) := by
  cases hi : s.ipc with
  | rd2 =>
    simp only [iStep, hi, execCsAssert, csAssert_eq]
    exact .of_asserted rfl
  | rd8 | wr3 =>
    simp only [iStep, hi, execCsDeassert, csDeassert_eq]
    exact .of_idle rfl
  | rest | rd4 => simp only [iStep, hi]; exact .of_kept rfl
  | take => simp only [iStep, hi]; exact exec_releases (decodeIrq_leavesSelect _) s
  | rd1 => simp only [iStep, hi]; exact whenDone_releases (i := .checkGuard .rx .ckRb) rfl fun _ => rfl
  | rd3 => simp only [iStep, hi]; exact whenDone_releases (i := .shuttleRx 0 10 0) rfl fun _ => rfl
  | rd5 => simp only [iStep, hi]; exact andThen_releases (i := .decodeHdr) rfl fun _ => rfl
  | rd6 => simp only [iStep, hi]; exact whenDone_releases (i := .shuttleRx 10 s.rxN 10) rfl fun _ => rfl
  | rd7 => simp only [iStep, hi]; exact whenDone_releases (i := .checkGuard .rx .ckRe) rfl fun _ => rfl
  | rd9 => simp only [iStep, hi]; exact whenDone_releases (i := .deliver 10 s.rxLen) rfl fun _ => rfl
  | wr1 => simp only [iStep, hi]; exact whenDone_releases (i := .shuttleTx s.txPtr s.txLen) rfl fun _ => rfl
  | wr2 => simp only [iStep, hi]; exact whenDone_releases (i := .checkGuard .tx .ckWe) rfl fun _ => rfl

/-- HDST's own move with nothing on the uop bus. -/
theorem seqStep_releases {s : State} (hu : s.uop = none) : Ensures (ReleasesIntoIdle s) (seqStep s) := by
  refine seqStep_ensures (fun i hi => ?_) (fun _ => iStep_releases s) (fun _ => .of_kept rfl)
    (fun _ _ _ => wStep_releases s) (exec_releases (environmental_leavesSelect (portCommand_environmental s)) s)
  exact absurd (hu.symm.trans hi) nofun

/-- Outside reset a step of a machine driven through its ports releases chip-select only into Idle. -/
theorem step_releases {s : State} (h : Standing s) (hr : s.resets = false) :
    Ensures (ReleasesIntoIdle s) (step s) := by
  refine step_ensures_of_noReset hr (seqStep_releases h.uop) (fun _ _ _ => seqStep_releases h.dropItem.uop)
    (fun item rest word left i hscript hact hw => ?_) fun a ha =>
      (applyAction_cs ha (dropItem s)).imp fun _ => .of_kept
  have henv := h.environmental_of_issue hscript hact hw
  rw [issueOp_environmental henv]
  exact exec_releases (environmental_leavesSelect henv) (dropItem s)

/-! ## The obligation -/

theorem csAssert_asserted {s : State} (h : s.cs = true) : csAssert s = s := if_pos h

theorem csDeassert_released {s : State} (h : s.cs = false) : csDeassert s = s := if_neg (by rw [h]; decide)

/-- The pin follows `cs` with its polarity (30_encoding.md R110). -/
theorem csPin_eq (s : State) : s.csPin = (s.cs ^^ s.cfg.csActiveLow) := by
  simp only [State.csPin, csPinLevel]
  cases s.cfg.csActiveLow <;> simp

/-- Settles O12: both operations by their equations, and the release by who moves at the step. -/
theorem chipSelectOperations : Obligations.ChipSelectOperations := by
  refine ⟨rfl, rfl, fun s => ⟨congrArg _ (csAssert_eq s), congrArg _ (csDeassert_eq s),
    fun h => congrArg _ (csAssert_asserted h), fun h => congrArg _ (csDeassert_released h),
    fun h => ?_, fun h => ?_⟩, fun s t hinv hstep hr => ?_⟩
  · rw [csPin_eq, h, Bool.true_xor]
  · rw [csPin_eq, h, Bool.false_xor]
  · exact (step_releases (inv_iff.mp hinv).1 hr).of_next hstep

end Sys2Proof.Machine
end

section
/-! Settles the family of 41_irq_sync.md: IRQ_EN and IRQ_DIS (O20), and who writes `irq_en` and `irq_pend` (O56). -/

namespace Sys2Proof.Machine

/-! ## A step by the operation it fetches and by who moves -/

/-- Outside reset a step of a machine driven through its ports is HDST's own move, an operation that the environment
issues, or another action of the environment. The property may speak of the operation fetched and of who moves. -/
theorem step_ensures_of_fetched {P : Option Instr → Bool → State → Prop} {s : State} (hst : Standing s)
    (hr : s.resets = false) (hown : Ensures (P (seqFetched s) true) (seqStep s))
    (hpass : Ensures (P (seqFetched s) true) (seqStep (dropItem s)))
    (hissue : ∀ i, environmental i = true → Ensures (P (some i) false) (exec i (dropItem s)))
    (hact : ∀ a, a ≠ .reset → Ensures (P none false) (applyAction a (dropItem s))) :
    Ensures (P s.fetched s.selfMove) (step s) := by
  have hmoves : ∀ {r : Result}, s.fetched = seqFetched s → s.selfMove = true →
      Ensures (P (seqFetched s) true) r → Ensures (P s.fetched s.selfMove) r := fun hf hm h => by rwa [hf, hm]
  cases hscript : s.env.script with
  | nil =>
    rw [step_alone hscript]
    exact hmoves (by simp [State.fetched, hscript]) (by simp [State.selfMove, hscript]) hown
  | cons item rest =>
    cases hdue : s.isDue item.due with
    | false =>
      rw [step_notDue hscript hdue]
      exact hmoves (by simp [State.fetched, hscript, hdue]) (by simp [State.selfMove, hscript, hdue]) hown
    | true =>
      have hother := hact item.act
      rw [step_due hscript hdue]
      cases ha : item.act with
      | pass =>
        exact hmoves (by simp [State.fetched, hscript, hdue, ha]) (by simp [State.selfMove, hscript, ha]) hpass
      | issue word =>
        cases hw : decode s.cfg word with
        | error e =>
          have hdrop : decode (dropItem s).cfg word = .error e := hw
          simp only [boundaryStep, hdrop]; trivial
        | ok r =>
          have hdrop : decode (dropItem s).cfg word = .ok r := hw
          have henv := hst.environmental_of_issue hscript ha hw
          have hf : s.fetched = some r.1 := by simp [State.fetched, hscript, hdue, ha, hw, Except.toOption]
          have hm : s.selfMove = false := by simp [State.selfMove, hscript, hdue, ha]
          simp only [boundaryStep, hdrop, issueOp_environmental henv, hf, hm]
          exact hissue r.1 henv
      | reset => simp [State.resets, hscript, hdue, ha] at hr
      | _ =>
        have hf : s.fetched = none := by simp [State.fetched, hscript, hdue, ha]
        have hm : s.selfMove = false := by simp [State.selfMove, hscript, hdue, ha]
        rw [hf, hm]
        rw [ha] at hother
        exact hother nofun

/-! ## The moves that write neither bit -/

/-- Both interrupt bits stay. -/
structure IrqBitsKept (s t : State) : Prop where
  irqEn : t.irqEn = s.irqEn := by rfl
  irqPend : t.irqPend = s.irqPend := by rfl

theorem IrqBitsKept.trans {s t u : State} (hst : IrqBitsKept s t) (htu : IrqBitsKept t u) : IrqBitsKept s u :=
  ⟨htu.irqEn.trans hst.irqEn, htu.irqPend.trans hst.irqPend⟩

theorem DataMove.irqBitsKept {s t : State} (h : DataMove s t) : IrqBitsKept s t := ⟨h.irqEn, h.irqPend⟩

theorem csAssert_irqBits (s : State) : IrqBitsKept s (csAssert s) := by
  rw [csAssert_eq]
  exact {}

theorem csDeassert_irqBits (s : State) : IrqBitsKept s (csDeassert s) := by
  rw [csDeassert_eq]
  exact {}

theorem hostCommand_irqBits {cmd : BitVec 2} {len : Half} {effect : State → State}
    (he : ∀ u, IrqBitsKept u (effect u)) (s : State) : IrqBitsKept s (hostCommand cmd len effect s) := by
  cases hr : s.cmdReady with
  | true => rw [hostCommand_ready hr]; exact IrqBitsKept.trans {} (he (withdraw s))
  | false => rw [hostCommand_held hr]; exact {}

/-- The operations of the ports and the sequencers that write neither bit. -/
def leavesIrqBits : Instr → Bool
  | .init | .onIrqPowerup | .onIrqOther _ | .onIrqIdle | .onIrqWriteirq | .irqEn | .irqDis | .edge | .frameIn _ => false
  | .wrframe _ _ _ | .rdframeData _ | .rdframeEvent _ | .rdframeOther _ => false
  | _ => true

theorem exec_irqBits {i : Instr} (hi : leavesIrqBits i = true) (s : State) :
    Ensures (IrqBitsKept s) (exec i s) := by
  cases i with
  | nocmd | irqLvl | uopNone => exact {}
  | submitWrite len => exact hostCommand_irqBits (effect := acceptWrite len) (fun _ => {}) s
  | cmdReserved => exact hostCommand_irqBits (effect := id) (fun _ => {}) s
  | csAssert => exact csAssert_irqBits s
  | csDeassert => exact csDeassert_irqBits s
  | xchg b => exact (xchg_dataMove b s).irqBitsKept
  | delayUs n => exact (delayUs_dataMove n s).irqBitsKept
  | deliver ptr len => exact (deliver_dataMove ptr len s).irqBitsKept
  | checkGuard sp site => exact (checkGuard_dataMove sp site s).irqBitsKept
  | buildHdr len => exact (buildHdr_dataMove len s).imp fun _ => DataMove.irqBitsKept
  | decodeHdr => exact (decodeHdr_dataMove s).imp fun _ => DataMove.irqBitsKept
  | shuttleTx base n => exact (shuttleTx_dataMove base n s).irqBitsKept
  | shuttleRx base n k0 => exact (shuttleRx_dataMove base n k0 s).imp fun _ => DataMove.irqBitsKept
  | write len payload =>
    exact (hostStore_dataMove .tx 5 payload s).andThen fun u hu =>
      hu.irqBitsKept.trans (hostCommand_irqBits (effect := acceptWrite len) (fun _ => {}) u)
  | _ => cases hi

/-! ## Who writes which bit (70_reset_and_hazards.md R228, 41_irq_sync.md R144) -/

/-- The writers of both bits, in a step that fetches an operation and in which HDST moves or the environment does. -/
structure IrqWrites (fetched : Option Instr) (moves : Bool) (s t : State) : Prop where
  set : s.irqEn = false → t.irqEn = true →
    fetched = some .init ∨ (s.wpc = .cr4 ∧ s.ipc = .rest ∧ moves = true)
  clear : s.irqEn = true → t.irqEn = false → s.wpc = .cr1 ∧ s.ipc = .rest ∧ moves = true
  taken : s.irqPend = true → t.irqPend = false → s.ipc = .take ∧ moves = true
  recorded : s.irqPend = false → t.irqPend = true → s.irqEn = true ∧ moves = false

section
variable {fetched : Option Instr} {moves : Bool} {s t : State}

/-- A bit that stays does not change. -/
theorem elim_of_bit_kept {a b c : Bool} {Q : Prop} (h : b = a) (ha : a = c) (hb : b = !c) : Q :=
  absurd (hb.symm.trans (h.trans ha)) (by cases c <;> decide)

theorem IrqBitsKept.writes (h : IrqBitsKept s t) : IrqWrites fetched moves s t :=
  ⟨elim_of_bit_kept h.irqEn, elim_of_bit_kept h.irqEn, elim_of_bit_kept h.irqPend, elim_of_bit_kept h.irqPend⟩

/-- A move that sets `irq_en`, where that is allowed. -/
theorem IrqWrites.of_enabled
    (hw : fetched = some .init ∨ (s.wpc = .cr4 ∧ s.ipc = .rest ∧ moves = true)) (he : t.irqEn = true)
    (hp : t.irqPend = s.irqPend) : IrqWrites fetched moves s t :=
  ⟨fun _ _ => hw, fun _ hf => absurd (he.symm.trans hf) nofun, elim_of_bit_kept hp, elim_of_bit_kept hp⟩

/-- W_CR1 clears `irq_en` (42_transport_write.md R170). -/
theorem IrqWrites.of_disabled (hw : s.wpc = .cr1 ∧ s.ipc = .rest ∧ moves = true) (he : t.irqEn = false)
    (hp : t.irqPend = s.irqPend) : IrqWrites fetched moves s t :=
  ⟨fun _ ht => absurd (he.symm.trans ht) nofun, fun _ _ => hw, elim_of_bit_kept hp, elim_of_bit_kept hp⟩

/-- I_TAKE clears `irq_pend` (43_transport_read.md R191). -/
theorem IrqWrites.of_taken (hw : s.ipc = .take ∧ moves = true) (he : t.irqEn = s.irqEn) (hp : t.irqPend = false) :
    IrqWrites fetched moves s t :=
  ⟨elim_of_bit_kept he, elim_of_bit_kept he, fun _ _ => hw, fun _ ht => absurd (hp.symm.trans ht) nofun⟩

end

/-- INIT enables the signal where it is accepted, and else waits on the port (R161). -/
theorem exec_init_writes (moves : Bool) (s : State) :
    Ensures (IrqWrites (some .init) moves s) (exec .init s) := by
  show IrqWrites (some .init) moves s (hostCommand 1 s.env.wrLen initStep s)
  cases hr : s.cmdReady with
  | true => rw [hostCommand_ready hr]; exact .of_enabled (.inl rfl) rfl rfl
  | false => rw [hostCommand_held hr]; exact IrqBitsKept.writes {}

/-! ## The line -/

/-- The request line's moves: `irq_en` stays, a pending edge stays pending, and none is recorded while disabled. -/
structure LineMove (s t : State) : Prop where
  irqEn : t.irqEn = s.irqEn
  pending : s.irqPend = true → t.irqPend = true
  disabled : s.irqEn = false → t.irqPend = s.irqPend

theorem LineMove.trans {s t u : State} (hst : LineMove s t) (htu : LineMove t u) : LineMove s u where
  irqEn := htu.irqEn.trans hst.irqEn
  pending := fun h => htu.pending (hst.pending h)
  disabled := fun h => (htu.disabled (hst.irqEn.trans h)).trans (hst.disabled h)

theorem clockEdges_lineMove (level : Bool) (n : Nat) (s : State) : LineMove s (clockEdges level n s) where
  irqEn := by rw [clockEdges_frame]
  pending := clockEdges_pending
  disabled := clockEdges_disabled

theorem lineEdge_lineMove (s : State) : LineMove s (lineTo true (lineTo false s)) :=
  (clockEdges_lineMove false _ s).trans (clockEdges_lineMove true _ (lineTo false s))

/-- The environment's move of the line can only record an edge, and only while the signal is enabled (R144). -/
theorem LineMove.writes {fetched : Option Instr} {s t : State} (h : LineMove s t) :
    IrqWrites fetched false s t := by
  refine ⟨elim_of_bit_kept h.irqEn, elim_of_bit_kept h.irqEn,
    fun hs => elim_of_bit_kept ((h.pending hs).trans hs.symm) hs, fun hs ht => ⟨?_, rfl⟩⟩
  cases he : s.irqEn with
  | true => rfl
  | false => exact elim_of_bit_kept (h.disabled he) hs ht

/-! ## The sequencers -/

theorem andThen_irqBits {s : State} {i : Instr} {f : State → State} (hi : leavesIrqBits i = true)
    (hf : ∀ u, IrqBitsKept u (f u)) : Ensures (IrqBitsKept s) (andThen f (exec i s)) :=
  (exec_irqBits hi s).andThen fun u hu => hu.trans (hf u)

theorem whenDone_irqBits {s : State} {i : Instr} {done : State → Bool} {f : State → State}
    (hi : leavesIrqBits i = true) (hf : ∀ u, IrqBitsKept u (f u)) :
    Ensures (IrqBitsKept s) (whenDone done f (exec i s)) :=
  (exec_irqBits hi s).whenDone (fun u hu _ => hu.trans (hf u)) fun _ hu _ => hu

/-- The labels of W whose micro-step writes one of the bits: `irq_en`. -/
def writesIrqEn : WLabel → Bool
  | .init | .cr1 | .cr4 => true
  | _ => false

theorem wStep_irqBits {s : State} (h : writesIrqEn s.wpc = false) : Ensures (IrqBitsKept s) (wStep s) := by
  cases hw : s.wpc with
  | init | cr1 | cr4 => rw [hw] at h; cases h
  | rest | acc | br | cr2 => simp only [wStep, hw]; exact {}
  | spin | fin => simp only [wStep, hw]; split <;> exact {}
  | ckb => simp only [wStep, hw]; exact whenDone_irqBits (i := .checkGuard .tx .ckWb) rfl fun _ => {}
  | hdr => simp only [wStep, hw]; exact andThen_irqBits (i := .buildHdr s.wrL) rfl fun _ => {}
  | wu1 | cr3 => simp only [wStep, hw]; exact andThen_irqBits (i := .csAssert) rfl fun _ => {}
  | wu2 | wu4 => simp only [wStep, hw]; exact whenDone_irqBits (i := .delayUs s.cfg.tWarm) rfl fun _ => {}
  | wu3 => simp only [wStep, hw]; exact whenDone_irqBits (i := .shuttleTx 0 4) rfl fun _ => {}
  | wu5 => simp only [wStep, hw]; exact whenDone_irqBits (i := .shuttleTx 4 (s.txTot - 4)) rfl fun _ => {}
  | wu6 | il2 => simp only [wStep, hw]; exact whenDone_irqBits (i := .checkGuard .tx .ckWe) rfl fun _ => {}
  | wu7 => simp only [wStep, hw]; exact andThen_irqBits (i := .csDeassert) rfl fun _ => {}
  | il1 => simp only [wStep, hw]; exact whenDone_irqBits (i := .shuttleTx s.txPtr s.txLen) rfl fun _ => {}
  | il3 => simp only [wStep, hw]; exact IrqBitsKept.trans {} ((csDeassert_irqBits (setState .idle s)).trans {})

/-- W writes `irq_en` at W_CR1 and W_CR4 only; it stands at W_INIT at no boundary (log 11). -/
theorem wStep_irqWrites {s : State} (h : Control s) (hi : s.ipc = .rest) :
    Ensures (IrqWrites (seqFetched s) true s) (wStep s) := by
  cases hw : s.wpc with
  | init => exact nomatch (h.caller hi hw).phase
  | cr1 => simp only [wStep, hw]; exact .of_disabled ⟨hw, hi, rfl⟩ rfl rfl
  | cr4 => simp only [wStep, hw]; exact .of_enabled (.inr ⟨hw, hi, rfl⟩) rfl rfl
  | _ => exact (wStep_irqBits (by rw [hw]; rfl)).imp fun _ => IrqBitsKept.writes

/-- Every arm of I_TAKE takes the edge. -/
theorem exec_decodeIrq_takes (code : BitVec 4) (s : State) :
    Ensures (fun t => t.irqEn = s.irqEn ∧ t.irqPend = false) (exec (decodeIrq code) s) := by
  unfold decodeIrq
  split <;> exact ⟨rfl, rfl⟩

theorem iStep_irqBits {s : State} (h : s.ipc ≠ .take) : Ensures (IrqBitsKept s) (iStep s) := by
  cases hi : s.ipc with
  | take => exact absurd hi h
  | rest | rd4 => simp only [iStep, hi]; exact {}
  | rd1 => simp only [iStep, hi]; exact whenDone_irqBits (i := .checkGuard .rx .ckRb) rfl fun _ => {}
  | rd2 => simp only [iStep, hi]; exact IrqBitsKept.trans {} ((csAssert_irqBits (setState .readIrq s)).trans {})
  | rd3 => simp only [iStep, hi]; exact whenDone_irqBits (i := .shuttleRx 0 10 0) rfl fun _ => {}
  | rd5 => simp only [iStep, hi]; exact andThen_irqBits (i := .decodeHdr) rfl fun _ => {}
  | rd6 => simp only [iStep, hi]; exact whenDone_irqBits (i := .shuttleRx 10 s.rxN 10) rfl fun _ => {}
  | rd7 => simp only [iStep, hi]; exact whenDone_irqBits (i := .checkGuard .rx .ckRe) rfl fun _ => {}
  | rd8 => simp only [iStep, hi]; exact andThen_irqBits (i := .csDeassert) rfl fun _ => {}
  | rd9 => simp only [iStep, hi]; exact whenDone_irqBits (i := .deliver 10 s.rxLen) rfl fun _ => {}
  | wr1 => simp only [iStep, hi]; exact whenDone_irqBits (i := .shuttleTx s.txPtr s.txLen) rfl fun _ => {}
  | wr2 => simp only [iStep, hi]; exact whenDone_irqBits (i := .checkGuard .tx .ckWe) rfl fun _ => {}
  | wr3 => simp only [iStep, hi]; exact IrqBitsKept.trans {} ((csDeassert_irqBits (setState .idle s)).trans {})

/-- I writes `irq_pend` at I_TAKE only. -/
theorem iStep_irqWrites (s : State) : Ensures (IrqWrites (seqFetched s) true s) (iStep s) := by
  by_cases hi : s.ipc = .take
  · simp only [iStep, hi]
    exact (exec_decodeIrq_takes _ s).imp fun _ ⟨he, hp⟩ => .of_taken ⟨hi, rfl⟩ he hp
  · exact (iStep_irqBits hi).imp fun _ => IrqBitsKept.writes

/-- The command on the port is INIT, or it writes neither bit. -/
theorem portCommand_init_or_leaves (s : State) :
    s.portCommand = .init ∨ leavesIrqBits s.portCommand = true := by
  unfold State.portCommand decodeCmd
  split
  · split
    · exact .inr rfl
    · exact .inl rfl
    · exact .inr rfl
    · exact .inr rfl
  · exact .inr rfl

/-- HDST's own move (60_exceptions.md R229). -/
theorem seqStep_irqWrites {s : State} (hu : s.uop = none) (h : Control s) :
    Ensures (IrqWrites (seqFetched s) true s) (seqStep s) := by
  cases hh : s.halted with
  | true => rw [seqStep_halted hh]; trivial
  | false =>
    by_cases hi : s.ipc = .rest
    · cases hs : s.irqStart with
      | true => rw [seqStep_irqStart hu hs]; exact IrqBitsKept.writes {}
      | false =>
        by_cases hw : s.wpc = .rest
        · have hfetched : seqFetched s = some s.portCommand := by simp [seqFetched, hh, hu, hi, hs, hw]
          rw [seqStep_command hh hu hi hs hw, hfetched]
          rcases portCommand_init_or_leaves s with hinit | hleaves
          · rw [hinit]; exact exec_init_writes true s
          · exact (exec_irqBits hleaves s).imp fun _ => IrqBitsKept.writes
        · rw [seqStep_caller hh hu hi hs hw]; exact wStep_irqWrites h hi
    · rw [seqStep_irqPath hh hu hi]; exact iStep_irqWrites s

/-! ## The environment -/

/-- Of the operations that the environment issues INIT enables the signal, and EDGE and FRAME_IN move the line. -/
theorem exec_environmental_irqWrites {i : Instr} (hi : environmental i = true) (s : State) :
    Ensures (IrqWrites (some i) false s) (exec i s) := by
  have hkept : leavesIrqBits i = true → Ensures (IrqWrites (some i) false s) (exec i s) := fun hl =>
    (exec_irqBits hl s).imp fun _ => IrqBitsKept.writes
  cases i with
  | init => exact exec_init_writes false s
  | edge => exact (lineEdge_lineMove s).writes
  | frameIn bytes =>
    have hreplies : LineMove s (addReplies bytes s) := ⟨rfl, id, fun _ => rfl⟩
    exact (hreplies.trans (lineEdge_lineMove _)).writes
  | nocmd | submitWrite _ | cmdReserved | write _ _ => exact hkept rfl
  | _ => cases hi

/-- Of its other actions but a reset only those of the line write a bit. -/
theorem applyAction_irqWrites {a : Action} (ha : a ≠ .reset) (s : State) :
    Ensures (IrqWrites none false s) (applyAction a s) := by
  cases a with
  | reset => exact absurd rfl ha
  | line v => exact (clockEdges_lineMove v _ s).writes
  | clk pin => exact (clockEdges_lineMove (activeLevel s.cfg pin) 1 s).writes
  | host sp i bs => exact (hostStore_dataMove sp i bs s).imp fun _ hm => hm.irqBitsKept.writes
  | timerAck => simp only [applyAction]; split <;> exact IrqBitsKept.writes {}
  | ack => simp only [applyAction]; split <;> exact IrqBitsKept.writes {}
  | present _ _ | reply _ | engine _ | timer _ | sink _ | issue _ | pass => exact IrqBitsKept.writes {}

/-! ## The obligations -/

theorem IrqWrites.of_dropItem {fetched : Option Instr} {moves : Bool} {s t : State}
    (h : IrqWrites fetched moves (dropItem s) t) : IrqWrites fetched moves s t :=
  ⟨h.set, h.clear, h.taken, h.recorded⟩

/-- Outside reset a step writes the bits as its operation and its mover allow. -/
theorem step_irqWrites {s : State} (h : Inv s) (hr : s.resets = false) :
    Ensures (IrqWrites s.fetched s.selfMove s) (step s) := by
  obtain ⟨hst, hc⟩ := inv_iff.mp h
  exact step_ensures_of_fetched (P := fun fetched moves => IrqWrites fetched moves s) hst hr
    (seqStep_irqWrites hst.uop hc)
    ((seqStep_irqWrites hst.dropItem.uop hc.dropItem).imp fun _ => IrqWrites.of_dropItem)
    (fun _ henv => (exec_environmental_irqWrites henv _).imp fun _ => IrqWrites.of_dropItem)
    fun _ ha => (applyAction_irqWrites ha _).imp fun _ => IrqWrites.of_dropItem

/-- Settles O56: the writers of every step, by who moves and what is fetched. -/
theorem interruptBitWriters : Obligations.InterruptBitWriters := fun _ _ hinv hstep hr =>
  have hw := (step_irqWrites hinv hr).of_next hstep
  ⟨hw.set, hw.clear, hw.taken, hw.recorded⟩

/-- Settles O20: both operations by their equations. -/
theorem interruptEnableDisable : Obligations.InterruptEnableDisable := fun _ => ⟨rfl, rfl⟩

end Sys2Proof.Machine
end

section
/-! The family of 42_transport_write.md. This part: what each micro-step of W does where HDST is alone and W moves
(R164 to R178), and the single steps that the rules state (O28, O31, O34, O36, O40, O43). -/

namespace Sys2Proof.Machine

/-! ## Where W moves -/

/-- HDST alone with W at a label and about to move: I is at rest and does not start (60_exceptions.md R229). -/
structure CallerMoves (l : WLabel) (s : State) : Prop where
  alone : runsAlone s
  ipc : s.ipc = .rest
  noStart : s.irqPend = false ∨ inhibited l = true
  wpc : s.wpc = l

section
variable {s : State}

theorem CallerMoves.step_eq {l : WLabel} (h : CallerMoves l s) (hl : l ≠ .rest) : step s = wStep s :=
  step_caller h.alone h.ipc (h.wpc ▸ h.noStart) (h.wpc ▸ hl)

/-- A micro-step that always completes, read off with the label in place. -/
theorem CallerMoves.moves {l : WLabel} {t : State} (h : CallerMoves l s) (hl : l ≠ .rest)
    (hmove : wStep { s with wpc := l } = .next t) : step s = .next t := by
  have hs : { s with wpc := l } = s := by rw [← h.wpc]
  rw [hs] at hmove
  exact (h.step_eq hl).trans hmove

/-! ## The guard comparisons (60_exceptions.md R223) -/

/-- W compares the transmit guard at W_CKB, W_WU6 and W_IL2. -/
theorem step_wGuard {here next : WLabel} {site : Site} (h : CallerMoves here s)
    (hlabel : (here = .ckb ∧ next = .hdr ∧ site = .ckWb) ∨ (here = .wu6 ∧ next = .wu7 ∧ site = .ckWe) ∨
      (here = .il2 ∧ next = .il3 ∧ site = .ckWe)) :
    step s = whenDone guardPassed (goW next) (execCheckGuard .tx site s) := by
  have hw := h.wpc
  rcases hlabel with ⟨rfl, rfl, rfl⟩ | ⟨rfl, rfl, rfl⟩ | ⟨rfl, rfl, rfl⟩ <;>
  · rw [h.step_eq nofun]
    simp only [wStep, hw]

/-- I compares the guard of its buffer at I_WR2, I_RD1 and I_RD7. -/
theorem step_iGuard {here next : ILabel} {sp : Space} {site : Site} (h : PathAt here s)
    (hlabel : (here = .wr2 ∧ next = .wr3 ∧ sp = .tx ∧ site = .ckWe) ∨
      (here = .rd1 ∧ next = .rd2 ∧ sp = .rx ∧ site = .ckRb) ∨
      (here = .rd7 ∧ next = .rd8 ∧ sp = .rx ∧ site = .ckRe)) :
    step s = whenDone guardPassed (goI next) (execCheckGuard sp site s) := by
  have hi := h.ipc
  rcases hlabel with ⟨rfl, rfl, rfl, rfl⟩ | ⟨rfl, rfl, rfl, rfl⟩ | ⟨rfl, rfl, rfl, rfl⟩ <;>
  · rw [h.step_eq nofun]
    simp only [iStep, hi]

/-- A step that compares a guard: the block halts where it stands, or the sequencer moves on. -/
theorem guardStep_outcomes {f : State → State} {sp : Space} {site : Site} (hs : runsAlone s)
    (hstep : step s = whenDone guardPassed f (execCheckGuard sp site s)) :
    (s.guardByte sp ≠ s.cfg.sentinel → step s = .next { s with halted := true, trace := .halt site :: s.trace }) ∧
    (s.guardByte sp = s.cfg.sentinel → step s = .next (f s)) :=
  ⟨fun hbad => hstep.trans (whenDone_checkGuard_corrupt site hbad),
    fun hgood => hstep.trans (whenDone_checkGuard site hs hgood)⟩

/-! ## The beginning of a write (42_transport_write.md R164, R165, R167) -/

theorem step_ckb (h : CallerMoves .ckb s) (hguard : s.guardByte .tx = s.cfg.sentinel) :
    step s = .next (goW .hdr s) :=
  (step_wGuard h (.inl ⟨rfl, rfl, rfl⟩)).trans (whenDone_checkGuard .ckWb h.alone hguard)

/-- The state that BUILD_HDR leaves (30_encoding.md R92). -/
def withHeader (len : Half) (s : State) : State :=
  { s with pad := writePad len, txTot := writeTotal len }.store .tx 0 (writeHeader s.cfg len)

theorem step_hdr (h : CallerMoves .hdr s) : step s = .next (goW .br (withHeader s.wrL s)) := h.moves nofun rfl

theorem step_br (h : CallerMoves .br s) : step s = .next (goW (branchLabel s.state) s) := h.moves nofun rfl

/-! ## The normal write (R169 to R173) -/

theorem step_spin_idle (h : CallerMoves .spin s) (hst : s.state = .idle) : step s = .next (goW .cr1 s) := by
  rw [h.step_eq nofun]
  simp only [wStep, h.wpc, if_pos hst]
  rfl

theorem step_cr1 (h : CallerMoves .cr1 s) : step s = .next (goW .cr2 (irqDisable s)) := h.moves nofun rfl

theorem step_cr2 (h : CallerMoves .cr2 s) : step s = .next (goW .cr3 (recordFrame s)) := h.moves nofun rfl

theorem step_cr3 (h : CallerMoves .cr3 s) : step s = .next (goW .cr4 (csAssert s)) :=
  h.moves nofun (by simp only [wStep, execCsAssert, csAssert_eq]; rfl)

theorem step_cr4 (h : CallerMoves .cr4 s) : step s = .next (sampleLevel (irqEnable s)) := h.moves nofun rfl

/-! ## The in-line write and the completion (R175 to R178) -/

theorem step_il1 (h : CallerMoves .il1 s) :
    step s = whenDone txDone (goW .il2) (exec (.shuttleTx s.txPtr s.txLen) s) := by
  rw [h.step_eq nofun]
  simp only [wStep, h.wpc]
  rfl

theorem step_il2 (h : CallerMoves .il2 s) (hguard : s.guardByte .tx = s.cfg.sentinel) :
    step s = .next (goW .il3 s) :=
  (step_wGuard h (.inr (.inr ⟨rfl, rfl, rfl⟩))).trans (whenDone_checkGuard .ckWe h.alone hguard)

theorem step_il3 (h : CallerMoves .il3 s) : step s = .next (goW .fin (csDeassert (setState .idle s))) :=
  h.moves nofun (by simp only [wStep, execCsDeassert, csDeassert_eq]; rfl)

theorem step_fin_idle (h : CallerMoves .fin s) (hst : s.state = .idle) : step s = .next (goW .rest s) := by
  rw [h.step_eq nofun]
  simp only [wStep, h.wpc, if_pos hst]
  rfl

theorem step_fin_wait (h : CallerMoves .fin s) (hst : s.state ≠ .idle) : step s = .next s := by
  rw [h.step_eq nofun]
  simp only [wStep, h.wpc, if_neg hst]

end

/-! ## The obligations -/

theorem branchLabel_warm {st : TransportState} (h : st = .powerUp ∨ st = .initialized) : branchLabel st = .wu1 := by
  rcases h with rfl | rfl <;> rfl

theorem branchLabel_normal {st : TransportState} (hp : st ≠ .powerUp) (hi : st ≠ .initialized) :
    branchLabel st = .spin := by
  cases st with
  | powerUp => exact absurd rfl hp
  | initialized => exact absurd rfl hi
  | _ => rfl

/-- Settles O28: accepted, INIT stores the two guards; held, it only stands on the port. -/
theorem initEffect : Obligations.InitEffect := by
  intro s
  refine ⟨fun hr => ⟨initStep (withdraw s), congrArg Host.Outcome.next (hostCommand_ready hr), ?_, ?_, ?_⟩,
    cmdReady_halted, fun hr => ⟨_, congrArg Host.Outcome.next (hostCommand_held hr), rfl⟩⟩ <;> rw [initStep_eq]
  · exact bufByte_write (s := s) rfl rfl
  · exact bufByte_write (s := s) rfl rfl
  · rfl

/-- Settles O31: at each of the six labels the step is the comparison, which has two outcomes. -/
theorem guardSites : Obligations.GuardSites := by
  intro s hs
  refine ⟨fun hw hi hp => ?_, fun hw hi hp => ?_, fun hw hi => ?_, fun hi => ?_, fun hi => ?_, fun hi => ?_⟩
  · exact guardStep_outcomes hs (step_wGuard ⟨hs, hi, .inl hp, hw⟩ (.inl ⟨rfl, rfl, rfl⟩))
  · exact guardStep_outcomes hs (step_wGuard ⟨hs, hi, .inl hp, hw⟩ (.inr (.inl ⟨rfl, rfl, rfl⟩)))
  · exact guardStep_outcomes hs (step_wGuard ⟨hs, hi, .inr rfl, hw⟩ (.inr (.inr ⟨rfl, rfl, rfl⟩)))
  · exact guardStep_outcomes hs (step_iGuard ⟨hs, hi⟩ (.inl ⟨rfl, rfl, rfl, rfl⟩))
  · exact guardStep_outcomes hs (step_iGuard ⟨hs, hi⟩ (.inr (.inl ⟨rfl, rfl, rfl, rfl⟩)))
  · exact guardStep_outcomes hs (step_iGuard ⟨hs, hi⟩ (.inr (.inr ⟨rfl, rfl, rfl, rfl⟩)))

/-- Settles O34: the three micro-steps by their equations, the branch by the value of `state`. -/
theorem writeBeginning : Obligations.WriteBeginning := by
  intro s hs hi hp
  refine ⟨fun hw hguard => step_ckb ⟨hs, hi, .inl hp, hw⟩ hguard, fun hw => ⟨_, rfl, ?_⟩, fun hw hst => ?_,
    fun hw hpowerUp hinit => ?_⟩
  · exact step_hdr ⟨hs, hi, .inl hp, hw⟩
  · rw [step_br ⟨hs, hi, .inl hp, hw⟩, branchLabel_warm hst]
    rfl
  · rw [step_br ⟨hs, hi, .inl hp, hw⟩, branchLabel_normal hpowerUp hinit]
    rfl

theorem sampleLevel_eq (s : State) :
    sampleLevel s = { s with lvl := s.irqS, wpc := if s.irqS then .il1 else .fin, trace := .level s.irqS :: s.trace } :=
  rfl

/-- Settles O36: the four micro-steps by their equations, the last by the level it samples. -/
theorem exclusiveSequence : Obligations.ExclusiveSequence := by
  intro s hs hi hp
  refine ⟨fun hw => step_cr1 ⟨hs, hi, .inl hp, hw⟩, fun hw => step_cr2 ⟨hs, hi, .inl hp, hw⟩, fun hw => ?_,
    fun hw hlevel => ?_, fun hw hlevel => ?_⟩
  · rw [step_cr3 ⟨hs, hi, .inl hp, hw⟩, csAssert_eq]
    rfl
  all_goals
    have hsampled : (irqEnable s).irqS = s.irqS := rfl
    rw [step_cr4 ⟨hs, hi, .inl hp, hw⟩, sampleLevel_eq, hsampled, hlevel]
    rfl

/-- An operation on the datapath leaves the inhibited interrupt path where it is, done or not. -/
theorem whenDone_inhibited {s u : State} {done : State → Bool} {l : WLabel} (hm : DataMove s u) :
    ∃ t, whenDone done (goW l) (.next u) = .next t ∧ t.ipc = s.ipc ∧ t.irqPend = s.irqPend := by
  cases hd : done u with
  | true => exact ⟨goW l u, by rw [whenDone_next, hd]; rfl, hm.ipc, hm.irqPend⟩
  | false => exact ⟨u, by rw [whenDone_next, hd]; rfl, hm.ipc, hm.irqPend⟩

/-- W completes a micro-step at every label of R179, and neither starts I nor takes the edge. -/
theorem wStep_inhibited {s : State} (h : inhibited s.wpc = true) :
    ∃ t, wStep s = .next t ∧ t.ipc = s.ipc ∧ t.irqPend = s.irqPend := by
  cases hw : s.wpc with
  | cr2 | cr4 => simp only [wStep, hw]; exact ⟨_, rfl, rfl, rfl⟩
  | cr3 => simp only [wStep, hw, execCsAssert, csAssert_eq]; exact ⟨_, rfl, rfl, rfl⟩
  | il1 => simp only [wStep, hw]; exact whenDone_inhibited (shuttleTx_dataMove s.txPtr s.txLen s)
  | il2 => simp only [wStep, hw]; exact whenDone_inhibited (checkGuard_dataMove .tx .ckWe s)
  | il3 => simp only [wStep, hw, execCsDeassert, csDeassert_eq]; exact ⟨_, rfl, rfl, rfl⟩
  | _ => rw [hw] at h; cases h

/-- One byte of a transmit shuttle in progress, answered at once: wherever it was loaded from, it is the one
recorded. -/
theorem shuttleTx_sends {s : State} (base : Nat) (n : Count) {r : Byte} {rest : List Byte} (hopen : s.txOpen = true)
    (h0 : s.txRem ≠ 0) (hx : s.xReq = false) (ha : s.env.answer? = some (r, rest)) :
    ∃ u, exec (.shuttleTx base n) s = .next u ∧ txDone u = decide (s.txRem = 1) ∧ u.txRem = s.txRem - 1 ∧
      u.irqPend = s.irqPend ∧ u.trace = .exchange u.xOut r :: s.trace ∧ u.wpc = s.wpc := by
  obtain ⟨_, hprompt, _⟩ := shuttleTxMicroStep s base n s.txRem _ (if_pos hopen).symm rfl
  obtain ⟨out, free, _, hexec⟩ := hprompt r rest h0 hx ha
  exact ⟨_, hexec, by simp [txDone], rfl, rfl, rfl, rfl⟩

/-- One byte of the in-line write: W stays at W_IL1 until it was the last (42_transport_write.md R175). -/
theorem step_il1_sends {s : State} {r : Byte} {rest : List Byte} (h : CallerMoves .il1 s) (hopen : s.txOpen = true)
    (h0 : s.txRem ≠ 0) (hx : s.xReq = false) (ha : s.env.answer? = some (r, rest)) :
    ∃ t, step s = .next t ∧ t.txRem = s.txRem - 1 ∧ t.irqPend = s.irqPend ∧
      t.trace = .exchange t.xOut r :: s.trace ∧ t.wpc = if s.txRem = 1 then .il2 else .il1 := by
  obtain ⟨u, hexec, hdone, hrem, hpend, htrace, hw⟩ := shuttleTx_sends s.txPtr s.txLen hopen h0 hx ha
  refine ⟨if s.txRem = 1 then goW .il2 u else u, by simp [step_il1 h, hexec, hdone], ?_⟩
  split
  · exact ⟨hrem, hpend, htrace, rfl⟩
  · exact ⟨hrem, hpend, htrace, hw.trans h.wpc⟩

/-- Settles O43: the step is W's, and at the labels of the in-line write it is the micro-step of its rule. -/
theorem interruptInhibited : Obligations.InterruptInhibited := by
  intro s hs hi
  refine ⟨fun hlabels => ?_, fun r rest hw => step_il1_sends ⟨hs, hi, .inr rfl, hw⟩,
    fun hw => step_il2 ⟨hs, hi, .inr rfl, hw⟩, fun hw => ?_⟩
  · have hinhibited : inhibited s.wpc = true ∧ s.wpc ≠ .rest := by
      rcases hlabels with hw | hw | hw | hw | hw | hw <;> rw [hw] <;> decide
    obtain ⟨t, hmove, hipc, hpend⟩ := wStep_inhibited hinhibited.1
    have hstep : step s = wStep s := step_caller hs hi (.inr hinhibited.1) hinhibited.2
    exact ⟨hstep, t, hstep.trans hmove, hipc.trans hi, hpend⟩
  · rw [step_il3 ⟨hs, hi, .inr rfl, hw⟩, csDeassert_eq]
    rfl

/-- Settles O40: W waits for Idle at both labels, and moves on in Idle. -/
theorem callerHoldsForIdle : Obligations.CallerHoldsForIdle := fun _ hs hi hp =>
  ⟨fun hw hst => step_spin hs hw hi hp hst, fun hw hst => step_spin_idle ⟨hs, hi, .inl hp, hw⟩ hst,
    fun hw hst => step_fin_wait ⟨hs, hi, .inl hp, hw⟩ hst, fun hw hst => step_fin_idle ⟨hs, hi, .inl hp, hw⟩ hst⟩

end Sys2Proof.Machine
end

section
/-! The whole write that W carries out itself. This part: what a transmit shuttle leaves, and the way from the command
on the port to the branch (R162 to R167), which every write takes. -/

namespace Sys2Proof.Machine

/-! ## What a sent range leaves -/

theorem Env.afterGiving_add (e : Env) (m n : Nat) : (e.afterGiving m).afterGiving n = e.afterGiving (m + n) := by
  simp [Env.afterGiving]

theorem bytesFrom_length (s : State) (sp : Space) (i n : Nat) : (s.bytesFrom sp i n).length = n := by
  simp [State.bytesFrom]

section
variable {i m : Nat} {s t : State} (h : SentRange i m s t)
include h

theorem SentRange.alone (hs : runsAlone s) : runsAlone t := by
  obtain ⟨hscript, hbus, hrun⟩ := hs
  exact ⟨(congrArg (fun u : State => u.env.script) h.frame).trans hscript, (congrArg State.uop h.frame).trans hbus,
    (congrArg State.halted h.frame).trans hrun⟩

theorem SentRange.low (hs : requestsLow s) : requestsLow t := by
  obtain ⟨hx, hd, hv, _, hr⟩ := hs
  exact ⟨(congrArg State.xReq h.frame).trans hx, (congrArg State.dReq h.frame).trans hd,
    (congrArg State.sValid h.frame).trans hv, congrArg State.txOpen h.frame, (congrArg State.rxOpen h.frame).trans hr⟩

theorem SentRange.cfg_eq : t.cfg = s.cfg := (congrArg State.cfg h.frame :)

theorem SentRange.env_eq : t.env = s.env.afterGiving m := congrArg State.env h.frame

theorem SentRange.bufByte_eq (sp : Space) (j : Nat) : t.bufByte sp j = s.bufByte sp j := by
  rw [h.frame]
  cases sp <;> rfl

theorem SentRange.bytesFrom_eq (sp : Space) (k n : Nat) : t.bytesFrom sp k n = s.bytesFrom sp k n := by
  simp only [State.bytesFrom, h.bufByte_eq]

theorem SentRange.guard (hs : s.guardByte .tx = s.cfg.sentinel) : t.guardByte .tx = t.cfg.sentinel := by
  rw [State.guardByte, h.bufByte_eq, cap_tx, h.cfg_eq]
  exact hs

/-- W stands at a label of its own again once the shuttle is done. -/
theorem SentRange.moves {l l' : WLabel} (hs : CallerMoves l s) (hstart : s.irqPend = false ∨ inhibited l' = true) :
    CallerMoves l' (goW l' t) :=
  ⟨h.alone hs.alone, (congrArg State.ipc h.frame).trans hs.ipc,
    hstart.imp_left (congrArg State.irqPend h.frame).trans, rfl⟩

end

/-- A sequencer that stands where it issues a transmit shuttle sends the whole range, if every request is answered at
once. -/
theorem run_shuttleTx {f : State → State} {At : State → Prop} {base m : Nat} {n : Count} {s : State}
    (hissue : ∀ u, At u → step u = whenDone txDone f (exec (.shuttleTx base n) u))
    (hAt : ∀ u rem out r rest, At u → At (sendByte rem out r rest u)) (hs : At s) (hlow : requestsLow s)
    (hm : n.toNat = m + 1) (hfit : base + (m + 1) ≤ s.cfg.txCap + 1) (hgive : s.env.canGive (m + 1)) :
    ∃ t, runSteps (m + 1) s = .next (f t) ∧ SentRange base (m + 1) s t := by
  obtain ⟨hx, _, _, hclosed, _⟩ := hlow
  obtain ⟨t, hrun, hsent⟩ := iterate_shuttleTx hissue hAt hs (rem := n) (by simp [hclosed]) hm (Nat.le_refl _)
    (hm ▸ hfit) hx hgive
  rw [cursor_self] at hsent
  rw [← iterate_step]
  exact ⟨t, hrun, hsent⟩

/-! ## From the command to the branch (42_transport_write.md R162 to R167) -/

/-- A write of `len` bytes is accepted next: HDST is alone and at rest, the command on the port, the transmit guard
good. -/
structure WriteStarts (len : Half) (s : State) : Prop where
  alone : runsAlone s
  ready : s.cmdReady = true
  valid : s.env.cmdValid = true
  cmd : s.env.cmd = 2
  wrLen : s.env.wrLen = len
  guard : s.guardByte .tx = s.cfg.sentinel

/-- The state in which the write goes its way: the header is in place, W stands behind the branch. -/
def framedState (len : Half) (s : State) : State :=
  { s with wrL := len, pad := writePad len, txTot := writeTotal len, tx := s.tx.writeBytes 0 (writeHeader s.cfg len),
           wpc := branchLabel s.state, env := { s.env with cmdValid := false } }

/-- W_CKB, W_HDR and W_BR. -/
theorem run_header {s : State} (h : CallerMoves .ckb s) (hguard : s.guardByte .tx = s.cfg.sentinel) :
    runSteps 3 s = .next (goW (branchLabel s.state) (withHeader s.wrL s)) := by
  have hp : s.irqPend = false := h.noStart.resolve_right nofun
  have hcheck := step_ckb h hguard
  have hheader : step (goW .hdr s) = .next (goW .br (withHeader s.wrL s)) := step_hdr ⟨h.alone, h.ipc, .inl hp, rfl⟩
  have hbranch := step_br (s := goW .br (withHeader s.wrL s)) ⟨h.alone, h.ipc, .inl hp, rfl⟩
  rw [runSteps_succ hcheck, runSteps_succ hheader, runSteps_succ hbranch]
  rfl

section
variable {len : Half} {s : State} (h : WriteStarts len s)
include h

theorem step_accept : step s = .next (acceptWrite len (withdraw s)) := by
  obtain ⟨hscript, hbus, hrun⟩ := h.alone
  obtain ⟨hw, hi, hp, _⟩ := (cmdReady_iff s).mp h.ready
  have hcommand : s.portCommand = .submitWrite len := by
    rw [State.portCommand, if_pos h.valid, h.cmd, h.wrLen]
    rfl
  rw [step_alone hscript, seqStep_command hrun hbus hi (irqStart_noPend hp) hw, hcommand]
  exact congrArg Host.Outcome.next (hostCommand_ready h.ready)

/-- The acceptance, then the way to the branch. -/
theorem run_writeBeginning : runSteps 4 s = .next (framedState len s) := by
  obtain ⟨_, hi, hp, _⟩ := (cmdReady_iff s).mp h.ready
  have hheader := run_header (s := acceptWrite len (withdraw s)) ⟨h.alone, hi, .inl hp, rfl⟩ h.guard
  rw [runSteps_succ (step_accept h), hheader]
  rfl

/-- W moves behind the branch. -/
theorem WriteStarts.moves {l : WLabel} (hl : branchLabel s.state = l) : CallerMoves l (framedState len s) := by
  obtain ⟨_, hi, hp, _⟩ := (cmdReady_iff s).mp h.ready
  exact ⟨h.alone, hi, .inl hp, hl⟩

end

section
variable (len : Half) (s : State)

/-- What the header leaves of TX. -/
theorem bufByte_framed (j : Nat) : (framedState len s).bufByte .tx j =
    if j < 5 then headerByte (writeHeader s.cfg len) j else s.bufByte .tx j :=
  bufByte_store_header { s with pad := writePad len, txTot := writeTotal len } s.cfg.wrTag _ _ j

/-- The guard lies behind the header. -/
theorem guard_framed {len : Half} {s : State} (hwf : s.cfg.wf = true) (hguard : s.guardByte .tx = s.cfg.sentinel) :
    (framedState len s).guardByte .tx = s.cfg.sentinel := by
  have hcap := (cap_ge_of_wf hwf).1
  rw [← hguard]
  exact (bufByte_framed len s s.cfg.txCap).trans (if_neg (by omega))

/-- The whole frame stands in TX (42_transport_write.md R183). -/
theorem bytesFrom_framed : (framedState len s).bytesFrom .tx 0 (writeTotal len).toNat = writeFrame s len := by
  have hlong : (writeTotal len).toNat = 5 + ((writeTotal len).toNat - 5) := by rw [writeTotal_toNat]; omega
  rw [hlong]
  exact bytesFrom_store_append s .tx 0 ((writeTotal len).toNat - 5) (writeHeader s.cfg len)

end

/-! ## Chip-select around a frame (40_bus_driver.md R121, R122) -/

/-- The state after an assertion that is seen on the pin. -/
def selected (s : State) : State := emit .csUp { s with cs := true }

/-- The state after a release that is seen on the pin. -/
def released (s : State) : State := emit .csDown { s with cs := false }

theorem csAssert_released {s : State} (h : s.cs = false) : csAssert s = selected s := if_neg (by simp [h])

theorem csDeassert_asserted {s : State} (h : s.cs = true) : csDeassert s = released s := if_pos h

end Sys2Proof.Machine
end

section
/-! The first write (O35): the warm-up of R166 and R168, its frame sent in two parts. -/

namespace Sys2Proof.Machine

/-! ## The micro-steps of the warm-up -/

/-- A delay of the warm-up that the timer answers at once. -/
def delayed (s : State) : State := { s with dUs := s.cfg.tWarm, trace := .delay s.cfg.tWarm :: s.trace }

section
variable {s : State}

theorem delayUs_auto (hd : s.dReq = false) (ht : s.env.timer = .auto) : delayUs s.cfg.tWarm s = delayed s := by
  have htaken : s.env.timer.taken = s.env.timer := by rw [ht]; rfl
  have hack : s.env.timer.acks = true := by rw [ht]; rfl
  obtain ⟨hprompt, _⟩ := delayHandshake s s.cfg.tWarm
  have hnext := hprompt hd hack
  rw [htaken] at hnext
  exact Host.Outcome.next.inj hnext

theorem step_delay {here next : WLabel} (h : CallerMoves here s)
    (hlabel : (here = .wu2 ∧ next = .wu3) ∨ (here = .wu4 ∧ next = .wu5)) (hd : s.dReq = false)
    (ht : s.env.timer = .auto) : step s = .next (goW next (delayed s)) := by
  have hopen : inhibited here = false := by rcases hlabel with ⟨rfl, _⟩ | ⟨rfl, _⟩ <;> rfl
  have hp : s.irqPend = false := h.noStart.resolve_right (by simp [hopen])
  have hdone : delayDone (delayed s) = true := by simp [delayDone, delayed, hd]
  rw [step_warmUpDelay h.alone h.ipc hp h.wpc hlabel, delayUs_auto hd ht, whenDone_next, if_pos hdone]

theorem step_wu1 (h : CallerMoves .wu1 s) (hcs : s.cs = false) : step s = .next (goW .wu2 (selected s)) := by
  rw [h.step_eq nofun, ← csAssert_released hcs]
  simp only [wStep, h.wpc]
  rfl

theorem step_wu3 (h : CallerMoves .wu3 s) : step s = whenDone txDone (goW .wu4) (exec (.shuttleTx 0 4) s) := by
  rw [h.step_eq nofun]
  simp only [wStep, h.wpc]
  rfl

theorem step_wu5 (h : CallerMoves .wu5 s) :
    step s = whenDone txDone (goW .wu6) (exec (.shuttleTx 4 (s.txTot - 4)) s) := by
  rw [h.step_eq nofun]
  simp only [wStep, h.wpc]
  rfl

theorem step_wu6 (h : CallerMoves .wu6 s) (hguard : s.guardByte .tx = s.cfg.sentinel) :
    step s = .next (goW .wu7 s) :=
  (step_wGuard h (.inr (.inl ⟨rfl, rfl, rfl⟩))).trans (whenDone_checkGuard .ckWe h.alone hguard)

theorem step_wu7 (h : CallerMoves .wu7 s) (hcs : s.cs = true) :
    step s = .next (goW .fin (setState .idle (released s))) := by
  rw [h.step_eq nofun, ← csDeassert_asserted hcs]
  simp only [wStep, h.wpc]
  rfl

end

/-- The state in which the first 4 bytes are sent. -/
def warmFirst (s : State) : State :=
  { s with cs := true, wpc := .wu3, dUs := s.cfg.tWarm, trace := .delay s.cfg.tWarm :: .csUp :: s.trace }

/-- The state in which the rest is sent. -/
def warmRest (s : State) : State :=
  { s with wpc := .wu5, dUs := s.cfg.tWarm, trace := .delay s.cfg.tWarm :: s.trace }

/-- The state after the whole frame: chip-select released, `state` Idle, W at rest. -/
def warmEnd (s : State) : State :=
  { s with state := .idle, cs := false, wpc := .rest, trace := .st .idle :: .csDown :: s.trace }

/-- The warm-up may begin: W stands at W_WU1 with nothing pending, no request stands, the timer answers at once, the
guard is good. -/
structure WarmUpStarts (s : State) : Prop where
  moves : CallerMoves .wu1 s
  low : requestsLow s
  cs : s.cs = false
  timer : s.env.timer = .auto
  guard : s.guardByte .tx = s.cfg.sentinel

/-- W_WU1 and W_WU2. -/
theorem run_warmFirst {s : State} (h : WarmUpStarts s) : runSteps 2 s = .next (warmFirst s) := by
  obtain ⟨hs, ⟨_, hd, _⟩, hcs, ht, _⟩ := h
  have hselect := step_wu1 hs hcs
  have hdelay := step_delay (s := goW .wu2 (selected s)) (here := .wu2) (next := .wu3)
    ⟨hs.alone, hs.ipc, hs.noStart, rfl⟩ (.inl ⟨rfl, rfl⟩) hd ht
  rw [runSteps_succ hselect, runSteps_succ hdelay]
  simp only [warmFirst, goW, delayed, selected, emit, runSteps]

/-- W_WU6, W_WU7 and W_FIN. -/
theorem run_warmEnd {t : State} (ht : CallerMoves .wu6 t) (hcs : t.cs = true)
    (hguard : t.guardByte .tx = t.cfg.sentinel) : runSteps 3 t = .next (warmEnd t) := by
  have hcheck := step_wu6 ht hguard
  have hrelease := step_wu7 (s := goW .wu7 t) ⟨ht.alone, ht.ipc, ht.noStart, rfl⟩ hcs
  have hfin := step_fin_idle (s := goW .fin (setState .idle (released (goW .wu7 t))))
    ⟨ht.alone, ht.ipc, ht.noStart, rfl⟩ rfl
  rw [runSteps_succ hcheck, runSteps_succ hrelease, runSteps_succ hfin]
  simp only [warmEnd, goW, setState, released, emit, runSteps]

/-- The warm-up: t stands after the first 4 bytes, u after the rest. -/
theorem run_warmUp {s : State} {m : Nat} (h : WarmUpStarts s) (hm : (s.txTot - 4).toNat = m + 1)
    (hfit : 4 + (m + 1) ≤ s.cfg.txCap + 1) (hgive : s.env.canGive (4 + (m + 1))) :
    ∃ t u, runSteps (2 + (4 + (1 + (m + 1 + 3)))) s = .next (warmEnd u) ∧ SentRange 0 4 (warmFirst s) t ∧
      SentRange 4 (m + 1) (warmRest t) u := by
  have hfirst := run_warmFirst h
  obtain ⟨hs, hlow, _, htimer, hguard⟩ := h
  have hmoves : CallerMoves .wu3 (warmFirst s) := ⟨hs.alone, hs.ipc, hs.noStart, rfl⟩
  obtain ⟨t, hsend, ht⟩ := run_shuttleTx (s := warmFirst s) (base := 0) (m := 3) (n := 4) (f := goW .wu4)
    (At := CallerMoves .wu3) (fun _ => step_wu3)
    (fun _ _ _ _ _ hu => ⟨hu.alone, hu.ipc, hu.noStart, hu.wpc⟩) hmoves hlow rfl
    (show 0 + 4 ≤ s.cfg.txCap + 1 by omega) (show s.env.canGive 4 from Env.canGive_left hgive)
  have hmoves' : CallerMoves .wu4 (goW .wu4 t) := ht.moves hmoves hs.noStart
  obtain ⟨_, hd, _⟩ := ht.low hlow
  have hdelay : runSteps 1 (goW .wu4 t) = .next (warmRest t) := runSteps_succ
    (step_delay hmoves' (.inr ⟨rfl, rfl⟩) hd (show t.env.timer = .auto by rw [ht.env_eq]; exact htimer))
  have hrest : CallerMoves .wu5 (warmRest t) := ⟨hmoves'.alone, hmoves'.ipc, hmoves'.noStart, rfl⟩
  have htot : t.txTot = s.txTot := (congrArg State.txTot ht.frame :)
  have hcfg : t.cfg = s.cfg := ht.cfg_eq
  obtain ⟨u, hsend', hu⟩ := run_shuttleTx (s := warmRest t) (m := m) (base := 4) (n := s.txTot - 4) (f := goW .wu6)
    (At := fun v => CallerMoves .wu5 v ∧ v.txTot = s.txTot) (fun v hv => hv.2 ▸ step_wu5 hv.1)
    (fun _ _ _ _ _ hv => ⟨⟨hv.1.alone, hv.1.ipc, hv.1.noStart, hv.1.wpc⟩, hv.2⟩) ⟨hrest, htot⟩ (ht.low hlow) hm
    (show 4 + (m + 1) ≤ t.cfg.txCap + 1 by rw [hcfg]; exact hfit)
    (show t.env.canGive (m + 1) by rw [ht.env_eq]; exact Env.canGive_right hgive)
  have hcs : u.cs = true := (congrArg State.cs hu.frame).trans (congrArg State.cs ht.frame)
  have hend := run_warmEnd (hu.moves hrest hrest.noStart) hcs (hu.guard (ht.guard hguard))
  refine ⟨t, u, ?_, ht, hu⟩
  rw [runSteps_add hfirst, runSteps_add hsend, runSteps_add hdelay, runSteps_add hsend']
  exact hend

section
variable {s t u : State} {m : Nat} (ht : SentRange 0 4 (warmFirst s) t) (hu : SentRange 4 m (warmRest t) u)
include ht hu

theorem warmUp_trace : (warmEnd u).trace = [.st .idle, .csDown] ++
    exchanges (s.bytesFrom .tx 4 m) ((s.env.gives (4 + m)).drop 4) ++ [.delay s.cfg.tWarm] ++
    exchanges (s.bytesFrom .tx 0 4) (s.env.gives 4) ++ [.delay s.cfg.tWarm, .csUp] ++ s.trace := by
  have hcfg : t.cfg = s.cfg := ht.cfg_eq
  have hbytes : (warmRest t).bytesFrom .tx 4 m = s.bytesFrom .tx 4 m := ht.bytesFrom_eq .tx 4 m
  have hgives : (warmRest t).env.gives m = (s.env.gives (4 + m)).drop 4 := by
    rw [show (warmRest t).env = s.env.afterGiving 4 from ht.env_eq, Env.gives_after]
  have hrest : (warmRest t).trace = .delay s.cfg.tWarm :: t.trace := by rw [← hcfg]; rfl
  show .st .idle :: .csDown :: u.trace = _
  rw [hu.trace, hbytes, hgives, hrest, ht.trace]
  simp only [List.append_assoc, List.cons_append, List.nil_append]
  rfl

theorem warmUp_frame : warmEnd u =
    { s with state := .idle, cs := false, wpc := .rest, txRem := 0, txOpen := false, xOut := u.xOut, xIn := u.xIn,
             dUs := s.cfg.tWarm, trace := (warmEnd u).trace, env := s.env.afterGiving (4 + m) } := by
  have hcfg : t.cfg = s.cfg := ht.cfg_eq
  have henv : t.env = s.env.afterGiving 4 := ht.env_eq
  have hafter : t.env.afterGiving m = s.env.afterGiving (4 + m) := by rw [henv, Env.afterGiving_add]
  rw [← hafter, ← hcfg]
  conv => lhs; rw [warmEnd, hu.frame, warmRest]
  rw [ht.frame]
  rfl

end

/-- Settles O35: from the command to the branch, then the warm-up, read off in the trace and the registers. -/
theorem warmUpWrite : Obligations.WarmUpWrite := by
  intro s len n hn hwf halone hlow hready hst hcs hvalid hcmd hlen hguard hfit htimer hgive
  have hstarts : WriteStarts len s := ⟨halone, hready, hvalid, hcmd, hlen, hguard⟩
  have hbegin := run_writeBeginning hstarts
  have htotal : (writeTotal len).toNat = n := (writeTotal_toNat len).trans hn.symm
  obtain ⟨m, hm⟩ : ∃ m, n = 4 + (m + 1) := ⟨n - 5, by omega⟩
  have hrest : (writeTotal len - 4).toNat = m + 1 := by
    rw [BitVec.toNat_sub_of_le (BitVec.le_def.mpr (by rw [htotal, hm]; exact Nat.le_add_right 4 _)), htotal, hm]
    exact Nat.add_sub_cancel_left 4 (m + 1)
  obtain ⟨t, u, hrun, ht, hu⟩ := run_warmUp (s := framedState len s)
    ⟨hstarts.moves (branchLabel_warm hst), hlow, hcs, htimer, guard_framed hwf hguard⟩ hrest
    (show 4 + (m + 1) ≤ s.cfg.txCap + 1 by omega) (show s.env.canGive (4 + (m + 1)) from hm ▸ hgive)
  have htrace := warmUp_trace ht hu
  have hframe := warmUp_frame ht hu
  have hframeBytes : writeFrame s len =
      (framedState len s).bytesFrom .tx 0 4 ++ (framedState len s).bytesFrom .tx 4 (m + 1) := by
    rw [← bytesFrom_framed, htotal, hm]
    exact bytesFrom_add _ .tx 0 4 (m + 1)
  have hgives : (s.env.gives n).take 4 = s.env.gives 4 := by
    rw [hm, Env.gives_add, List.take_left' Env.gives_length]
  obtain ⟨hw, _⟩ := (cmdReady_iff s).mp hready
  obtain ⟨_, _, _, hclosed, _⟩ := hlow
  refine ⟨warmEnd u, ?_, rfl, rfl, rfl, ?_, ?_, fun j => ?_, fun j => ?_, ?_⟩
  · rw [show n + 10 = 4 + (2 + (4 + (1 + (m + 1 + 3)))) by omega, runSteps_add hbegin]
    exact hrun
  · rw [htrace, hframeBytes, List.drop_left' (bytesFrom_length _ _ _ _), List.take_left' (bytesFrom_length _ _ _ _),
      hgives, hm]
    rfl
  · rw [← bytesFrom_framed, bytesFrom_length, htotal]
  · rw [hframe]
    exact bufByte_framed len s j
  · rw [hframe]
    rfl
  · rw [hframe, hm]
    simp only [hcs, hw, hclosed]
    rfl

end Sys2Proof.Machine
end

section
/-! The write in Idle: armed by the exclusive sequence (R169 to R173), then waiting for the edge (O38), carried out in
line (O37), or completed by the interrupt path (O39). -/

namespace Sys2Proof.Machine

/-! ## The exclusive sequence -/

/-- The state in which the frame of a write is recorded, in the critical section (20_memory.md R81). -/
def recordedState (s : State) : State :=
  { s with state := .writeIrq, irqEn := false, txPtr := 0, txLen := s.txTot, wpc := .cr3,
           trace := .st .writeIrq :: .enDown :: s.trace }

/-- The state in which a write is armed: chip-select asserted, the signal enabled and its level v sampled. -/
def armedState (v : Bool) (s : State) : State :=
  { s with state := .writeIrq, cs := true, irqEn := true, lvl := v, txPtr := 0, txLen := s.txTot,
           wpc := if v then .il1 else .fin,
           trace := .level v :: .enUp :: .csUp :: .st .writeIrq :: .enDown :: s.trace }

section
variable {s : State} (h : CallerMoves .spin s) (hst : s.state = .idle) (hcs : s.cs = false)
include h

theorem CallerMoves.spin_noPend : s.irqPend = false := h.noStart.resolve_right nofun

include hst

/-- W_SPIN, W_CR1 and W_CR2. -/
theorem run_record : runSteps 3 s = .next (recordedState s) := by
  have hp := h.spin_noPend
  have hspin := step_spin_idle h hst
  have hdisable := step_cr1 (s := goW .cr1 s) ⟨h.alone, h.ipc, .inl hp, rfl⟩
  have hrecord := step_cr2 (s := goW .cr2 (irqDisable (goW .cr1 s))) ⟨h.alone, h.ipc, .inl hp, rfl⟩
  rw [runSteps_succ hspin, runSteps_succ hdisable, runSteps_succ hrecord]
  simp only [recordedState, goW, recordFrame, setState, irqDisable, emit, runSteps]

include hcs

/-- W_SPIN to W_CR4. -/
theorem run_exclusive : runSteps (3 + 2) s = .next (armedState s.irqS s) := by
  have hp := h.spin_noPend
  have hselect : step (recordedState s) = .next (goW .cr4 (selected (recordedState s))) := by
    rw [← csAssert_released (show (recordedState s).cs = false from hcs)]
    exact step_cr3 ⟨h.alone, h.ipc, .inl hp, rfl⟩
  have hsample := step_cr4 (s := goW .cr4 (selected (recordedState s))) ⟨h.alone, h.ipc, .inl hp, rfl⟩
  rw [runSteps_add (run_record h hst), runSteps_succ hselect, runSteps_succ hsample]
  rfl

end

/-- A write in Idle, from the command on the port to the armed state. -/
theorem run_armed {len : Half} {s : State} {v : Bool} (h : WriteStarts len s) (hst : s.state = .idle)
    (hcs : s.cs = false) (hlevel : s.irqS = v) :
    runSteps (4 + (3 + 2)) s = .next (armedState v (framedState len s)) := by
  have hmoves : CallerMoves .spin (framedState len s) := h.moves (by rw [hst]; rfl)
  rw [runSteps_add (run_writeBeginning h), ← hlevel]
  exact run_exclusive hmoves hst hcs

/-! ## The armed write waits (R174) -/

/-- Settles O38: the armed state stands at W_FIN in WriteIrq, where W holds. -/
theorem armedWriteWaits : Obligations.ArmedWriteWaits := by
  intro s len hwf halone hready hst hcs hvalid hcmd hlen hguard hlevel
  obtain ⟨_, hi, hp, _⟩ := (cmdReady_iff s).mp hready
  have harmed := run_armed ⟨halone, hready, hvalid, hcmd, hlen, hguard⟩ hst hcs hlevel
  have hwait := step_fin_wait (s := armedState false (framedState len s)) ⟨halone, hi, .inl hp, rfl⟩ nofun
  exact ⟨armedState false (framedState len s), harmed, rfl, rfl, rfl, rfl, rfl, bufByte_framed len s, rfl,
    runSteps_fixed hwait⟩

/-! ## The in-line write (R175 to R178) -/

/-- The state after the whole frame: `state` Idle with the release of chip-select, W at rest. -/
def frameEnd (s : State) : State :=
  { s with state := .idle, cs := false, wpc := .rest, trace := .csDown :: .st .idle :: s.trace }

theorem step_il3_selected {s : State} (h : CallerMoves .il3 s) (hcs : s.cs = true) :
    step s = .next (goW .fin (released (setState .idle s))) := by
  have hcs' : (setState .idle s).cs = true := hcs
  rw [step_il3 h, csDeassert_asserted hcs']

/-- W_IL2, W_IL3 and W_FIN. -/
theorem run_inlineEnd {s : State} (h : CallerMoves .il2 s) (hp : s.irqPend = false) (hcs : s.cs = true)
    (hguard : s.guardByte .tx = s.cfg.sentinel) : runSteps 3 s = .next (frameEnd s) := by
  have hcheck := step_il2 h hguard
  have hrelease := step_il3_selected (s := goW .il3 s) ⟨h.alone, h.ipc, .inl hp, rfl⟩ hcs
  have hfin := step_fin_idle (s := goW .fin (released (setState .idle (goW .il3 s))))
    ⟨h.alone, h.ipc, .inl hp, rfl⟩ rfl
  rw [runSteps_succ hcheck, runSteps_succ hrelease, runSteps_succ hfin]
  rfl

/-- The in-line write: t stands after the whole frame. -/
theorem run_inline {s : State} {m : Nat} (h : CallerMoves .il1 s) (hp : s.irqPend = false) (hlow : requestsLow s)
    (hcs : s.cs = true) (hguard : s.guardByte .tx = s.cfg.sentinel) (hm : s.txLen.toNat = m + 1)
    (hfit : s.txPtr + (m + 1) ≤ s.cfg.txCap + 1) (hgive : s.env.canGive (m + 1)) :
    ∃ t, runSteps (m + 1 + 3) s = .next (frameEnd t) ∧ SentRange s.txPtr (m + 1) s t := by
  obtain ⟨t, hsend, ht⟩ := run_shuttleTx (s := s) (base := s.txPtr) (n := s.txLen) (f := goW .il2)
    (At := fun v => CallerMoves .il1 v ∧ v.txPtr = s.txPtr ∧ v.txLen = s.txLen)
    (fun v ⟨hv, hptr, hlen⟩ => hptr ▸ hlen ▸ step_il1 hv)
    (fun _ _ _ _ _ ⟨hv, hregs⟩ => ⟨⟨hv.alone, hv.ipc, hv.noStart, hv.wpc⟩, hregs⟩) ⟨h, rfl, rfl⟩ hlow hm hfit hgive
  have hend := run_inlineEnd (ht.moves h (.inr rfl)) ((congrArg State.irqPend ht.frame).trans hp)
    ((congrArg State.cs ht.frame).trans hcs) (ht.guard hguard)
  exact ⟨t, (runSteps_add hsend).trans hend, ht⟩

theorem frameEnd_trace {i m : Nat} {s t : State} (h : SentRange i m s t) : (frameEnd t).trace =
    [.csDown, .st .idle] ++ exchanges (s.bytesFrom .tx i m) (s.env.gives m) ++ s.trace := by
  show .csDown :: .st .idle :: t.trace = _
  rw [h.trace]
  rfl

theorem frameEnd_eq {i m : Nat} {s t : State} (h : SentRange i m s t) : frameEnd t =
    { s with state := .idle, cs := false, wpc := .rest, txRem := 0, txOpen := false, xOut := t.xOut, xIn := t.xIn,
             trace := (frameEnd t).trace, env := s.env.afterGiving m } := by
  conv => lhs; rw [frameEnd, h.frame]
  rfl

/-- Settles O37: from the command to the armed state, then the in-line write. -/
theorem inlineWrite : Obligations.InlineWrite := by
  intro s len n hn hwf halone hlow hready hst hcs hvalid hcmd hlen hguard hfit hlevel hgive
  obtain ⟨hw, hi, hp, _⟩ := (cmdReady_iff s).mp hready
  have harmed := run_armed ⟨halone, hready, hvalid, hcmd, hlen, hguard⟩ hst hcs hlevel
  obtain ⟨m, rfl⟩ : ∃ m, n = m + 1 := ⟨n - 1, by omega⟩
  have htotal : (writeTotal len).toNat = m + 1 := (writeTotal_toNat len).trans hn.symm
  obtain ⟨t, hsend, ht⟩ : ∃ t, runSteps (m + 1 + 3) (armedState true (framedState len s)) = .next (frameEnd t) ∧
      SentRange 0 (m + 1) (armedState true (framedState len s)) t :=
    run_inline ⟨halone, hi, .inl hp, rfl⟩ hp hlow rfl (guard_framed hwf hguard) htotal
      (show 0 + (m + 1) ≤ s.cfg.txCap + 1 by omega) hgive
  have hframe := frameEnd_eq ht
  obtain ⟨_, _, _, hclosed, _⟩ := hlow
  refine ⟨frameEnd t, ?_, rfl, rfl, ?_, fun j => ?_, fun j => ?_, ?_⟩
  · rw [show m + 1 + 12 = 4 + (3 + 2) + (m + 1 + 3) by omega, runSteps_add harmed]
    exact hsend
  · have hbytes : (armedState true (framedState len s)).bytesFrom .tx 0 (m + 1) = writeFrame s len := by
      rw [← bytesFrom_framed, htotal]
      rfl
    rw [frameEnd_trace ht, hbytes, List.append_assoc _ _ s.trace]
    rfl
  · rw [hframe]
    exact bufByte_framed len s j
  · rw [hframe]
    rfl
  · rw [hframe]
    simp only [hcs, hw, hclosed, hst]
    rfl

/-! ## The completion by the interrupt path (43_transport_read.md R190, R191, R207 to R209) -/

/-- The state in which the interrupt path sends the frame of an armed write. -/
def completingState (s : State) : State := { s with irqPend := false, ipc := .wr1 }

/-- The start of I and I_TAKE. -/
theorem run_takeArmed {s : State} (h : PathAt .rest s) (hpend : s.irqPend = true) (hw : s.wpc = .fin)
    (hst : s.state = .writeIrq) : runSteps 2 s = .next (completingState s) := by
  have hstart := step_irqStart h hpend (by rw [hw]; rfl)
  have htake : step (irqEnter s) = .next (completingState s) := by
    have harm : irqArm (irqEnter s).state = .onIrqWriteirq := congrArg irqArm hst
    rw [step_take (s := irqEnter s) h.alone rfl, harm]
    rfl
  rw [runSteps_succ hstart, runSteps_succ htake]
  rfl

theorem step_wr2 {s : State} (h : PathAt .wr2 s) (hguard : s.guardByte .tx = s.cfg.sentinel) :
    step s = .next (goI .wr3 s) :=
  (step_iGuard h (.inl ⟨rfl, rfl, rfl, rfl⟩)).trans (whenDone_checkGuard .ckWe h.alone hguard)

theorem step_wr3 {s : State} (h : PathAt .wr3 s) (hcs : s.cs = true) :
    step s = .next (irqReturn (released (setState .idle s))) := by
  have hcs' : (setState .idle s).cs = true := hcs
  rw [h.step_eq nofun, ← csDeassert_asserted hcs']
  simp only [iStep, h.ipc]
  rfl

/-- I_WR2, I_WR3 and W_FIN. -/
theorem run_completeEnd {s : State} (h : PathAt .wr2 s) (hp : s.irqPend = false) (hw : s.wpc = .fin)
    (hcs : s.cs = true) (hguard : s.guardByte .tx = s.cfg.sentinel) :
    runSteps 3 s = .next (frameEnd (irqReturn s)) := by
  have hcheck := step_wr2 h hguard
  have hrelease := step_wr3 (s := goI .wr3 s) ⟨h.alone, rfl⟩ hcs
  have hfin := step_fin_idle (s := irqReturn (released (setState .idle (goI .wr3 s)))) ⟨h.alone, rfl, .inl hp, hw⟩ rfl
  rw [runSteps_succ hcheck, runSteps_succ hrelease, runSteps_succ hfin]
  rfl

/-- Settles O39: the start of I, its shuttle over the recorded frame, and its return to W at W_FIN. -/
theorem armedWriteCompletes : Obligations.ArmedWriteCompletes := by
  intro s halone hlow hw hi hpend hst hcs hguard hn hfit hgive
  obtain ⟨m, hm⟩ := exists_count_succ hn
  rw [hm] at hfit hgive ⊢
  have htake := run_takeArmed ⟨halone, hi⟩ hpend hw hst
  obtain ⟨t, hsend, ht⟩ := run_shuttleTx (s := completingState s) (base := s.txPtr) (n := s.txLen) (f := goI .wr2)
    (At := fun v => PathAt .wr1 v ∧ v.txPtr = s.txPtr ∧ v.txLen = s.txLen)
    (fun v ⟨hv, hptr, hlen⟩ => hptr ▸ hlen ▸ step_wr1 hv.alone hv.ipc)
    (fun _ _ _ _ _ ⟨hv, hregs⟩ => ⟨⟨hv.alone, hv.ipc⟩, hregs⟩) ⟨⟨halone, rfl⟩, rfl, rfl⟩ hlow hm hfit hgive
  have hend := run_completeEnd (s := goI .wr2 t) ⟨ht.alone halone, rfl⟩ (congrArg State.irqPend ht.frame)
    ((congrArg State.wpc ht.frame).trans hw) ((congrArg State.cs ht.frame).trans hcs) (ht.guard hguard)
  obtain ⟨_, _, _, hclosed, _⟩ := hlow
  refine ⟨frameEnd (irqReturn t), ?_, rfl, ?_, ?_⟩
  · rw [show m + 1 + 5 = 2 + (m + 1 + 3) by omega, runSteps_add htake, runSteps_add hsend]
    exact hend
  · exact (frameEnd_trace ht :)
  · show { frameEnd t with ipc := .rest } = _
    rw [frameEnd_eq ht]
    simp only [hi, hclosed]
    rfl

end Sys2Proof.Machine
end

section
/-! While I is active W stands still (O45): what each micro-step of the interrupt path leaves of the caller path, of the
port commands and of the requests that W has raised. -/

namespace Sys2Proof.Machine

/-- What a move of I at a label leaves as it is: W with its registers, the command on the port, TX, the delay; the
cursor of a transmit shuttle and the exchange that stands, but where I runs a shuttle itself. -/
structure CallerFrozen (i : ILabel) (s t : State) : Prop where
  wpc : t.wpc = s.wpc := by rfl
  wrL : t.wrL = s.wrL := by rfl
  pad : t.pad = s.pad := by rfl
  txTot : t.txTot = s.txTot := by rfl
  txPtr : t.txPtr = s.txPtr := by rfl
  txLen : t.txLen = s.txLen := by rfl
  lvl : t.lvl = s.lvl := by rfl
  irqEn : t.irqEn = s.irqEn := by rfl
  cmdValid : t.env.cmdValid = s.env.cmdValid := by rfl
  cmd : t.env.cmd = s.env.cmd := by rfl
  wrLen : t.env.wrLen = s.env.wrLen := by rfl
  tx : sameBytes .tx s t := by exact fun _ => rfl
  dReq : t.dReq = s.dReq := by rfl
  dUs : t.dUs = s.dUs := by rfl
  shuttle : i ≠ .wr1 → t.txRem = s.txRem ∧ t.txOpen = s.txOpen := by exact fun _ => ⟨rfl, rfl⟩
  request : i ≠ .wr1 → i ≠ .rd3 → i ≠ .rd6 → t.xReq = s.xReq ∧ t.xOut = s.xOut ∧ t.xIn = s.xIn := by
    exact fun _ _ _ => ⟨rfl, rfl, rfl⟩

section
variable {s u : State} {i : ILabel}

/-- The move to the next label of I adds nothing. -/
theorem CallerFrozen.goI (l : ILabel) (h : CallerFrozen i s u) : CallerFrozen i s (goI l u) := { h with }

theorem whenDone_frozen {r : Result} {done : State → Bool} {l : ILabel} (h : Ensures (CallerFrozen i s) r) :
    Ensures (CallerFrozen i s) (whenDone done (goI l) r) :=
  h.whenDone (fun _ hu _ => hu.goI l) fun _ hu _ => hu

theorem checkGuard_frozen (sp : Space) (site : Site) : CallerFrozen i s (checkGuard sp site s) := by
  unfold checkGuard
  split <;> exact {}

theorem decodeHdr_frozen : Ensures (CallerFrozen i s) (execDecodeHdr s) := by
  unfold execDecodeHdr
  split
  · exact {}
  · trivial

theorem deliver_frozen (ptr : Nat) (len : Half) : CallerFrozen i s (deliver ptr len s) := by
  rw [deliver_cases]
  cases s.env.sink.acks <;> exact {}

theorem decodeIrq_frozen (code : BitVec 4) : Ensures (CallerFrozen i s) (exec (decodeIrq code) s) := by
  unfold decodeIrq
  split <;> exact {}

/-- The transmit shuttle of I runs at I_WR1. -/
theorem shuttleTx_frozen (base : Nat) (n : Count) : CallerFrozen .wr1 s (shuttleTx base n s) := by
  rcases shuttleTx_cases base n s with ⟨_, ht⟩ | ⟨_, _, ht⟩ | ⟨r, rest, _, _, ht⟩ <;> rw [ht, loadTx_eq]
  · exact { shuttle := fun h => absurd rfl h }
  all_goals
    rw [raiseFromTx_eq]
    exact { shuttle := fun h => absurd rfl h, request := fun h => absurd rfl h }

/-- The receive shuttle's attempt at an exchange, at a label where I runs it. -/
theorem xchg_frozen (b : Byte) (n : Count) (hi : i = .rd3 ∨ i = .rd6) :
    CallerFrozen i s (xchg b (loadRx n s)) := by
  have hruns : ∀ {P : Prop}, i ≠ .rd3 → i ≠ .rd6 → P := fun h3 h6 => absurd hi (not_or.mpr ⟨h3, h6⟩)
  rcases xchg_cases b (loadRx n s) with ⟨_, hx⟩ | ⟨r, rest, _, hx⟩ <;> rw [hx, loadRx_eq]
  · exact { request := fun _ h3 h6 => hruns h3 h6 }
  · exact { request := fun _ h3 h6 => hruns h3 h6 }

/-- A receive shuttle uses the exchange and leaves the cursor of the transmit shuttle alone. -/
theorem shuttleRx_frozen (base : Nat) (n k0 : Count) (hi : i = .rd3 ∨ i = .rd6) :
    Ensures (CallerFrozen i s) (shuttleRx base n k0 s) := by
  rcases shuttleRx_cases base n k0 s with ⟨_, ht⟩ | ⟨_, _, ht⟩ | ⟨r, rest, _, _, _, ht⟩ | ⟨_, _, _, ht⟩ <;> rw [ht]
  · rw [loadRx_eq]
    exact {}
  · exact xchg_frozen _ n hi
  · exact { xchg_frozen _ n hi with }
  · trivial

end

theorem iStep_frozen (s : State) : Ensures (CallerFrozen s.ipc s) (iStep s) := by
  cases hi : s.ipc with
  | rest | rd4 => simp only [iStep, hi]; exact {}
  | take => simp only [iStep, hi]; exact decodeIrq_frozen s.stateBits
  | rd1 | rd7 | wr2 => simp only [iStep, hi]; exact whenDone_frozen (checkGuard_frozen _ _)
  | rd2 => simp only [iStep, hi, execCsAssert, csAssert_eq]; exact {}
  | rd3 | rd6 => simp only [iStep, hi]; exact whenDone_frozen (shuttleRx_frozen _ _ _ (by simp))
  | rd5 => simp only [iStep, hi]; exact decodeHdr_frozen.andThen fun _ => CallerFrozen.goI .rd6
  | rd8 | wr3 => simp only [iStep, hi, execCsDeassert, csDeassert_eq]; exact {}
  | rd9 => simp only [iStep, hi]; exact whenDone_frozen (deliver_frozen 10 s.rxLen)
  | wr1 => simp only [iStep, hi]; exact whenDone_frozen (shuttleTx_frozen s.txPtr s.txLen)

/-- Settles O45: where I is active the step is its micro-step. -/
theorem callerFrozenWhileReading : Obligations.CallerFrozenWhileReading := by
  intro s t hs hi hstep
  have hmove : iStep s = .next t := (PathAt.step_eq ⟨hs, rfl⟩ hi).symm.trans hstep
  have h := (iStep_frozen s).of_next hmove
  exact ⟨h.wpc, h.wrL, h.pad, h.txTot, h.txPtr, h.txLen, h.lvl, h.irqEn, h.cmdValid, h.cmd, h.wrLen, h.tx, h.dReq,
    h.dUs, h.shuttle, h.request⟩

end Sys2Proof.Machine
end

section
/-! Who makes `state` PowerUp and Initialized, and how the warm-up ends (O55, 42_transport_write.md R182). -/

namespace Sys2Proof.Machine

/-! ## The moves that write neither value -/

/-- The values of `state` in which a write goes through the warm-up (R167). -/
def boots : TransportState → Bool
  | .powerUp | .initialized => true
  | _ => false

/-- `state` is kept or leaves the two values, and W does not leave W_WU7. -/
structure BootKept (s t : State) : Prop where
  state : t.state = s.state ∨ boots t.state = false
  wpc : s.wpc = .wu7 → t.wpc = .wu7

section
variable {s t u : State}

theorem BootKept.of_same (hst : t.state = s.state) (hw : t.wpc = s.wpc) : BootKept s t := ⟨.inl hst, hw.trans⟩

theorem BootKept.trans (hst : BootKept s t) (htu : BootKept t u) : BootKept s u where
  state := htu.state.elim (fun h => hst.state.imp h.trans fun hb => h ▸ hb) .inr
  wpc := htu.wpc ∘ hst.wpc

theorem DataMove.bootKept (h : DataMove s t) : BootKept s t := .of_same h.state h.wpc

theorem clockEdges_bootKept (level : Bool) (n : Nat) (s : State) : BootKept s (clockEdges level n s) := by
  rw [clockEdges_frame]
  exact .of_same rfl rfl

theorem lineEdge_bootKept (s : State) : BootKept s (lineTo true (lineTo false s)) :=
  (clockEdges_bootKept false _ s).trans (clockEdges_bootKept true _ (lineTo false s))

/-- A command is accepted at rest only, so its effect does not take W from W_WU7. -/
theorem hostCommand_bootKept {cmd : BitVec 2} {len : Half} {effect : State → State}
    (he : ∀ v, (effect v).state = v.state) (s : State) : BootKept s (hostCommand cmd len effect s) := by
  cases hr : s.cmdReady with
  | true =>
    obtain ⟨hrest, _⟩ := (cmdReady_iff s).mp hr
    rw [hostCommand_ready hr]
    exact ⟨.inl (he (withdraw s)), fun hw => absurd (hrest.symm.trans hw) nofun⟩
  | false =>
    rw [hostCommand_held hr]
    exact .of_same rfl rfl

/-- The operations that the environment issues, but INIT. -/
theorem exec_environmental_bootKept {i : Instr} (henv : environmental i = true) (hinit : i ≠ .init) (s : State) :
    Ensures (BootKept s) (exec i s) := by
  cases i with
  | init => exact absurd rfl hinit
  | nocmd => exact (withdraw_dataMove s).bootKept
  | submitWrite len => exact hostCommand_bootKept (effect := acceptWrite len) (fun _ => rfl) s
  | cmdReserved => exact hostCommand_bootKept (effect := id) (fun _ => rfl) s
  | edge => exact lineEdge_bootKept s
  | frameIn bytes => exact (addReplies_dataMove bytes s).bootKept.trans (lineEdge_bootKept _)
  | write len payload =>
    exact (hostStore_dataMove .tx 5 payload s).andThen fun u hu =>
      hu.bootKept.trans (hostCommand_bootKept (effect := acceptWrite len) (fun _ => rfl) u)
  | _ => cases henv

theorem applyAction_bootKept {a : Action} (ha : a ≠ .reset) (s : State) :
    Ensures (BootKept s) (applyAction a s) := by
  cases a with
  | reset => exact absurd rfl ha
  | host sp i bs => exact (hostStore_dataMove sp i bs s).imp fun _ => DataMove.bootKept
  | line v => exact clockEdges_bootKept v _ s
  | clk pin => exact clockEdges_bootKept _ 1 s
  | timerAck => simp only [applyAction]; split <;> exact .of_same rfl rfl
  | ack => simp only [applyAction]; split <;> exact .of_same rfl rfl
  | present _ _ | reply _ | engine _ | timer _ | sink _ | issue _ | pass => exact .of_same rfl rfl

/-- Away from W_WU7 W may go anywhere. -/
theorem BootKept.of_label {l : WLabel} (hw : s.wpc = l) (hl : l ≠ .wu7)
    (hst : t.state = s.state ∨ boots t.state = false) : BootKept s t :=
  ⟨hst, fun h => absurd (hw.symm.trans h) hl⟩

/-- An operation on the datapath, then W's move to its next label. -/
theorem whenDone_bootKept {r : Result} {done : State → Bool} {l l' : WLabel} (h : Ensures (DataMove s) r)
    (hw : s.wpc = l) (hl : l ≠ .wu7) : Ensures (BootKept s) (whenDone done (goW l') r) :=
  h.whenDone (fun _ hu _ => .of_label hw hl (.inl hu.state)) fun _ hu _ => hu.bootKept

/-- W at every label but W_WU7; it stands at W_INIT at no boundary (log 11). -/
theorem wStep_bootKept (hinit : s.wpc ≠ .init) (hlast : s.wpc ≠ .wu7) : Ensures (BootKept s) (wStep s) := by
  cases hw : s.wpc with
  | init => exact absurd hw hinit
  | wu7 => exact absurd hw hlast
  | rest => simp only [wStep, hw]; exact .of_same rfl rfl
  | acc | br | cr1 | cr4 => simp only [wStep, hw]; exact .of_label hw nofun (.inl rfl)
  | spin | fin => simp only [wStep, hw]; split <;> exact .of_label hw nofun (.inl rfl)
  | ckb | wu6 | il2 => simp only [wStep, hw]; exact whenDone_bootKept (checkGuard_dataMove _ _ s) hw nofun
  | hdr =>
    simp only [wStep, hw]
    exact (buildHdr_dataMove s.wrL s).andThen fun _ hu => .of_label hw nofun (.inl hu.state)
  | wu1 | cr3 => simp only [wStep, hw, execCsAssert, csAssert_eq]; exact .of_label hw nofun (.inl rfl)
  | wu2 | wu4 => simp only [wStep, hw]; exact whenDone_bootKept (delayUs_dataMove _ s) hw nofun
  | wu3 | wu5 | il1 => simp only [wStep, hw]; exact whenDone_bootKept (shuttleTx_dataMove _ _ s) hw nofun
  | cr2 => simp only [wStep, hw]; exact .of_label hw nofun (.inr rfl)
  | il3 => simp only [wStep, hw, execCsDeassert, csDeassert_eq]; exact .of_label hw nofun (.inr rfl)

theorem whenDone_state {r : Result} {done : State → Bool} {l : ILabel} (h : Ensures (DataMove s) r) :
    Ensures (fun t => t.state = s.state ∨ boots t.state = false) (whenDone done (goI l) r) :=
  h.whenDone (fun _ hu _ => .inl hu.state) fun _ hu _ => .inl hu.state

/-- I at every label but I_TAKE. -/
theorem iStep_state (h : s.ipc ≠ .take) :
    Ensures (fun t => t.state = s.state ∨ boots t.state = false) (iStep s) := by
  cases hi : s.ipc with
  | take => exact absurd hi h
  | rest => simp only [iStep, hi]; exact .inl rfl
  | rd1 | rd7 | wr2 => simp only [iStep, hi]; exact whenDone_state (checkGuard_dataMove _ _ s)
  | rd2 => simp only [iStep, hi, execCsAssert, csAssert_eq]; exact .inr rfl
  | rd3 | rd6 => simp only [iStep, hi]; exact whenDone_state (shuttleRx_dataMove _ _ _ s)
  | rd4 => simp only [iStep, hi]; exact .inr rfl
  | rd5 => simp only [iStep, hi]; exact (decodeHdr_dataMove s).andThen fun _ hu => .inl hu.state
  | rd8 | wr3 => simp only [iStep, hi, execCsDeassert, csDeassert_eq]; exact .inr rfl
  | rd9 => simp only [iStep, hi]; exact whenDone_state (deliver_dataMove _ _ s)
  | wr1 => simp only [iStep, hi]; exact whenDone_state (shuttleTx_dataMove _ _ s)

theorem iStep_bootKept (h : s.ipc ≠ .take) : Ensures (BootKept s) (iStep s) :=
  ensures_iff.mpr fun _ ht => ⟨(iStep_state h).of_next ht, ((iStep_frozen s).of_next ht).wpc.trans⟩

end

/-! ## The writers (R182) -/

/-- The writers of the two values in a step that fetches an operation, and the end of the warm-up. -/
structure BootWrites (fetched : Option Instr) (s t : State) : Prop where
  powerUp : t.state = .powerUp → s.state ≠ .powerUp → fetched = some .init ∧ s.cmdReady = true
  initialized : t.state = .initialized → s.state ≠ .initialized →
    s.state = .powerUp ∧ fetched = some .onIrqPowerup
  ending : s.wpc = .wu7 → t.wpc ≠ .wu7 → t.wpc = .fin ∧ t.state = .idle

section
variable {fetched : Option Instr} {s t : State}

/-- A value of `state` that boots is written by none of these moves. -/
theorem BootKept.state_eq (h : BootKept s t) {v : TransportState} (hv : boots v = true) (ht : t.state = v) :
    s.state = v :=
  h.state.elim (fun hs => hs.symm.trans ht) fun hb => absurd (ht ▸ hb) (by simp [hv])

theorem BootKept.writes (h : BootKept s t) : BootWrites fetched s t where
  powerUp := fun ht hs => absurd (h.state_eq rfl ht) hs
  initialized := fun ht hs => absurd (h.state_eq rfl ht) hs
  ending := fun hs ht => absurd (h.wpc hs) ht

theorem BootWrites.of_dropItem (h : BootWrites fetched (dropItem s) t) : BootWrites fetched s t :=
  ⟨h.powerUp, h.initialized, h.ending⟩

/-- INIT makes `state` PowerUp where it is accepted (R161). -/
theorem exec_init_bootWrites (s : State) : Ensures (BootWrites (some .init) s) (exec .init s) := by
  show BootWrites (some .init) s (hostCommand 1 s.env.wrLen initStep s)
  cases hr : s.cmdReady with
  | true =>
    obtain ⟨hrest, _⟩ := (cmdReady_iff s).mp hr
    rw [hostCommand_ready hr]
    exact ⟨fun _ _ => ⟨rfl, hr⟩, nofun, fun hw => absurd (hrest.symm.trans hw) nofun⟩
  | false =>
    rw [hostCommand_held hr]
    exact (present_dataMove 1 s.env.wrLen s).bootKept.writes

theorem exec_environmental_bootWrites {i : Instr} (henv : environmental i = true) (s : State) :
    Ensures (BootWrites (some i) s) (exec i s) := by
  by_cases hinit : i = .init
  · rw [hinit]
    exact exec_init_bootWrites s
  · exact (exec_environmental_bootKept henv hinit s).imp fun _ => BootKept.writes

/-- W_WU7 ends the warm-up in Idle (R168). -/
theorem wStep_bootWrites (hinit : s.wpc ≠ .init) : Ensures (BootWrites fetched s) (wStep s) := by
  by_cases hw : s.wpc = .wu7
  · simp only [wStep, hw, execCsDeassert, csDeassert_eq]
    exact ⟨nofun, nofun, fun _ _ => ⟨rfl, rfl⟩⟩
  · exact (wStep_bootKept hinit hw).imp fun _ => BootKept.writes

/-- The arm of I_TAKE in PowerUp makes `state` Initialized, the others keep it (43_transport_read.md R191, R192). -/
theorem take_bootWrites (s : State) : Ensures (BootWrites (some (irqArm s.state)) s) (exec (irqArm s.state) s) := by
  cases hst : s.state with
  | powerUp => exact ⟨nofun, fun _ _ => ⟨hst, rfl⟩, fun hw ht => absurd hw ht⟩
  | _ => exact Ensures.imp (P := BootKept s) (.of_same rfl rfl) fun _ => BootKept.writes

theorem decodeIrq_stateBits (s : State) : decodeIrq s.stateBits = irqArm s.state := by
  unfold State.stateBits
  cases s.state <;> rfl

/-- HDST's own move (60_exceptions.md R229). -/
theorem seqStep_bootWrites (hu : s.uop = none) (h : Control s) :
    Ensures (BootWrites (seqFetched s) s) (seqStep s) := by
  cases hh : s.halted with
  | true => rw [seqStep_halted hh]; trivial
  | false =>
    by_cases hi : s.ipc = .rest
    · cases hs : s.irqStart with
      | true => rw [seqStep_irqStart hu hs]; exact BootKept.writes (t := irqEnter s) (.of_same rfl rfl)
      | false =>
        by_cases hw : s.wpc = .rest
        · have hfetched : seqFetched s = some s.portCommand := by simp [seqFetched, hh, hu, hi, hs, hw]
          rw [seqStep_command hh hu hi hs hw, hfetched]
          exact exec_environmental_bootWrites (portCommand_environmental s) s
        · rw [seqStep_caller hh hu hi hs hw]
          exact wStep_bootWrites fun hinit => nomatch (h.caller hi hinit).phase
    · rw [seqStep_irqPath hh hu hi]
      by_cases htake : s.ipc = .take
      · have hfetched : seqFetched s = some (irqArm s.state) := by
          simp [seqFetched, hh, hu, htake, decodeIrq_stateBits]
        rw [iStep_take htake, hfetched]
        exact take_bootWrites s
      · exact (iStep_bootKept htake).imp fun _ => BootKept.writes

end

/-- Outside reset a step writes the two values, and ends the warm-up, as its operation allows. -/
theorem step_bootWrites {s : State} (h : Inv s) (hr : s.resets = false) :
    Ensures (BootWrites s.fetched s) (step s) := by
  obtain ⟨hst, hc⟩ := inv_iff.mp h
  exact step_ensures_of_fetched (P := fun fetched _ => BootWrites fetched s) hst hr
    (seqStep_bootWrites hst.uop hc)
    ((seqStep_bootWrites hst.dropItem.uop hc.dropItem).imp fun _ => BootWrites.of_dropItem)
    (fun _ henv => (exec_environmental_bootWrites henv _).imp fun _ => BootWrites.of_dropItem)
    fun _ ha => (applyAction_bootKept ha _).imp fun _ hk => BootWrites.of_dropItem hk.writes

/-- Settles O55: the writers of every step. -/
theorem powerUpWriters : Obligations.PowerUpWriters := fun _ _ hinv hstep hr =>
  have hw := (step_bootWrites hinv hr).of_next hstep
  ⟨hw.powerUp, hw.initialized, hw.ending⟩

end Sys2Proof.Machine
end

section
/-! Settles the family of 43_transport_read.md: the start of I (O42), the arms of I_TAKE (O44), and the reading of one
whole frame (O46), whose parts up to the payload are those of O47. -/

namespace Sys2Proof.Machine

/-! ## The start of the interrupt path and I_TAKE (R190 to R192, R206) -/

/-- The labels of W at which I may start are those outside the list of R179. -/
theorem inhibited_eq_false {l : WLabel} (hcr2 : l ≠ .cr2) (hcr3 : l ≠ .cr3) (hcr4 : l ≠ .cr4) (hil1 : l ≠ .il1)
    (hil2 : l ≠ .il2) (hil3 : l ≠ .il3) : inhibited l = false := by
  cases l with
  | cr2 => exact absurd rfl hcr2
  | cr3 => exact absurd rfl hcr3
  | cr4 => exact absurd rfl hcr4
  | il1 => exact absurd rfl hil1
  | il2 => exact absurd rfl hil2
  | il3 => exact absurd rfl hil3
  | _ => rfl

/-- Settles O42: outside the list of R179 a pending edge meets the start condition of I, which goes before W. -/
theorem interruptStarts : Obligations.InterruptStarts := fun _ hs hpend hi hcr2 hcr3 hcr4 hil1 hil2 hil3 =>
  step_irqStart ⟨hs, hi⟩ hpend (inhibited_eq_false hcr2 hcr3 hcr4 hil1 hil2 hil3)

/-- Settles O44: each arm by its equation. -/
theorem interruptArms : Obligations.InterruptArms := fun _ _ => ⟨rfl, rfl, rfl, rfl⟩

/-! ## The payload, also where it is empty (R200) -/

section
variable {s : State}

theorem step_rd6 (h : PathAt .rd6 s) :
    step s = whenDone rxDone (goI .rd7) (shuttleRx 10 s.rxN 10 s) := by
  rw [h.step_eq nofun]
  simp only [iStep, h.ipc]
  rfl

/-- A range of no bytes: the cursor is closed and nothing else moves. -/
theorem receivedRange_zero (k i : Nat) (s : State) : ReceivedRange k i 0 s { s with rxOpen := false, rxRem := 0 } := by
  refine ⟨?_, ?_, rfl⟩ <;> rw [Env.gives_zero] <;> rfl

/-- I_RD6 reads the `rx_n` payload bytes; with none to read it takes one micro-step. -/
theorem run_payload {m : Nat} (hs : PathAt .rd6 s) (hlow : requestsLow s) (hm : s.rxN.toNat = m)
    (hcap : 10 + m ≤ s.cfg.rxCap + 1) (hgive : s.env.canGive m) :
    ∃ u, runSteps (max m 1) s = .next (goI .rd7 u) ∧ ReceivedRange 10 10 m s u := by
  cases m with
  | zero =>
    have hnone : s.rxN = 0 := BitVec.eq_of_toNat_eq hm
    obtain ⟨_, _, _, _, hclosed⟩ := hlow
    have hdone := shuttleRx_done (s := s) (base := 10) (n := s.rxN) (k0 := 10) (by simp [hclosed]) hnone
    exact ⟨_, runSteps_succ (by rw [step_rd6 hs, hdone]; rfl), receivedRange_zero 10 10 s⟩
  | succ m =>
    rw [Nat.max_eq_left (Nat.le_add_left 1 m)]
    exact run_readPayload hs hlow hm hcap hgive

end

/-- From a pending edge to the payload: t stands after the ten header bytes. -/
theorem run_toPayload {s : State} {kind : FrameKind} {len : Half} {n : Count} (h : ReadStarts s)
    (hlow : requestsLow s) (hgive : s.env.canGive 10) (hcap : 10 ≤ s.cfg.rxCap + 1)
    (hdec : decodeHeader s.cfg (s.env.gives 10) = some (kind, len, n)) :
    ∃ t, runSteps (4 + (10 + 2)) s = .next (payloadState kind len n t) ∧ ReceivedRange 0 0 10 (headerState s) t := by
  obtain ⟨t, hheader, ht⟩ := run_readHeader (s := headerState s) ⟨h.alone, rfl⟩ hlow hcap hgive
  have hheaderBytes : (goI .rd4 t).rxHeader = s.env.gives 10 := (rxHeader_eq _).trans ht.bytesFrom_rx
  have hcfg : t.cfg = s.cfg := ht.cfg_eq
  have hdecode := run_readDecode (s := goI .rd4 t) (kind := kind) (len := len) (n := n) ⟨ht.alone h.alone, rfl⟩
    (by rw [hheaderBytes, goI_cfg, hcfg, hdec])
  refine ⟨t, ?_, ht⟩
  rw [runSteps_add (run_readEntry h), runSteps_add hheader]
  exact hdecode

/-! ## From the last byte to the delivery (R201 to R205) -/

/-- The state after a frame is read: chip-select released, `state` Idle, `len` bytes delivered, I at rest. -/
def deliveredState (len : Half) (s : State) : State :=
  { s with state := .idle, cs := false, ipc := .rest, sPtr := 10, sLen := len,
           trace := .deliver 10 len :: .st .idle :: .csDown :: s.trace }

section
variable {s : State}

theorem step_rd7 (h : PathAt .rd7 s) (hguard : s.guardByte .rx = s.cfg.sentinel) : step s = .next (goI .rd8 s) :=
  (step_iGuard h (.inr (.inr ⟨rfl, rfl, rfl, rfl⟩))).trans (whenDone_checkGuard .ckRe h.alone hguard)

theorem step_rd8 (h : PathAt .rd8 s) (hcs : s.cs = true) :
    step s = .next (goI .rd9 (setState .idle (released s))) := by
  rw [h.step_eq nofun, ← csDeassert_asserted hcs]
  simp only [iStep, h.ipc]
  rfl

/-- A sink that acknowledges every request takes the delivery in the micro-step that raises it. -/
theorem deliver_auto (ptr : Nat) (len : Half) (hv : s.sValid = false) (hsink : s.env.sink = .auto) :
    deliver ptr len s = { s with sPtr := ptr, sLen := len, trace := .deliver ptr len :: s.trace } := by
  have henv : { s.env with sink := .auto } = s.env := by rw [← hsink]
  simp [deliver_cases, hv, hsink, Peer.acks, Peer.taken, henv]

theorem step_rd9_auto (h : PathAt .rd9 s) (hv : s.sValid = false) (hsink : s.env.sink = .auto) :
    step s = .next (irqReturn
      { s with sPtr := 10, sLen := s.rxLen, trace := .deliver 10 s.rxLen :: s.trace }) := by
  rw [step_rd9 h, deliver_auto 10 s.rxLen hv hsink]
  simp [deliverDone, hv]

/-- I_RD7, I_RD8 and I_RD9. -/
theorem run_deliver {len : Half} (h : PathAt .rd7 s) (hguard : s.guardByte .rx = s.cfg.sentinel) (hcs : s.cs = true)
    (hv : s.sValid = false) (hsink : s.env.sink = .auto) (hlen : s.rxLen = len) :
    runSteps 3 s = .next (deliveredState len s) := by
  subst hlen
  have hcheck := step_rd7 h hguard
  have hrelease := step_rd8 (s := goI .rd8 s) ⟨h.alone, rfl⟩ hcs
  have hdeliver := step_rd9_auto (s := goI .rd9 (setState .idle (released (goI .rd8 s)))) ⟨h.alone, rfl⟩ hv hsink
  rw [runSteps_succ hcheck, runSteps_succ hrelease, runSteps_succ hdeliver]
  rfl

end

/-! ## What a whole frame leaves -/

section
variable {s t u : State} {kind : FrameKind} {len : Half} {n : Count} {m : Nat}
  (ht : ReceivedRange 0 0 10 (headerState s) t) (hu : ReceivedRange 10 10 m (payloadState kind len n t) u)
include ht hu

theorem readFrame_bufByte_outside {j : Nat} (hj : 10 + m ≤ j) : u.bufByte .rx j = s.bufByte .rx j := by
  have hpayload : u.bufByte .rx j = t.bufByte .rx j := hu.bufByte_outside (.inr hj)
  have hheader : t.bufByte .rx j = s.bufByte .rx j := ht.bufByte_outside (.inr (by omega))
  exact hpayload.trans hheader

theorem readFrame_sameTx : sameBytes .tx s u := fun j => (hu.sameTx j).trans (ht.sameTx j)

/-- The header and the payload stand in RX one behind the other. -/
theorem readFrame_bytes : u.bytesFrom .rx 0 (10 + m) = s.env.gives (10 + m) := by
  have henv : (payloadState kind len n t).env = s.env.afterGiving 10 := ht.env_eq
  have hheader : u.bytesFrom .rx 0 10 = s.env.gives 10 := by
    refine Eq.trans (List.map_congr_left fun k hk => ?_) (ht.bytesFrom_rx :)
    have hk : k < 10 := List.mem_range.mp hk
    exact hu.bufByte_outside (.inl (by omega))
  rw [bytesFrom_add, hheader, Nat.zero_add, hu.bytesFrom_rx, henv, Env.gives_add]

theorem readFrame_guard (hfit : 10 + m ≤ s.cfg.rxCap) (hguard : s.guardByte .rx = s.cfg.sentinel) :
    u.guardByte .rx = u.cfg.sentinel := by
  have hcfg : u.cfg = s.cfg := hu.cfg_eq.trans ht.cfg_eq
  rw [State.guardByte, cap_rx, hcfg, readFrame_bufByte_outside ht hu hfit]
  exact hguard

theorem readFrame_env : u.env = s.env.afterGiving (10 + m) := by
  have henv : (payloadState kind len n t).env = s.env.afterGiving 10 := ht.env_eq
  rw [hu.env_eq, henv, Env.afterGiving_add]

theorem delivered_trace : (deliveredState len u).trace = [.deliver 10 len, .st .idle, .csDown] ++
    exchanges (readingBytes s.cfg 10 m) ((s.env.gives (10 + m)).drop 10) ++ [.st .readEot] ++
      exchanges (readingBytes s.cfg 0 10) (s.env.gives 10) ++ [.csUp, .st .readIrq] ++ s.trace := by
  show .deliver 10 len :: .st .idle :: .csDown :: u.trace = _
  rw [readFrame_trace ht hu]
  rfl

/-- What reading a whole frame writes; every other field is as before the edge. -/
theorem delivered_eq : deliveredState len u =
    { s with state := .idle, cs := false, ipc := .rest, irqPend := false, rxKind := kind, rxLen := len, rxN := n,
             rxOpen := false, rxRem := 0, rx := u.rx, xOut := u.xOut, xIn := u.xIn, sPtr := 10, sLen := len,
             trace := (deliveredState len u).trace, env := s.env.afterGiving (10 + m) } := by
  rw [← Env.afterGiving_add]
  conv => lhs; rw [deliveredState, hu.frame, ht.frame]
  rfl

end

/-- Settles O46: from the edge to the payload, the payload, and from its last byte to the delivery. -/
theorem readOneFrame : Obligations.ReadOneFrame := by
  intro s kind len n halone hlow hpend hi hw hst hcs hguard hgive hsink hdec hfit
  obtain ⟨t, hbegin, ht⟩ := run_toPayload ⟨halone, hi, hpend, hw, hst, hcs, hguard⟩ hlow (Env.canGive_left hgive)
    (by omega) hdec
  have hcfg : t.cfg = s.cfg := ht.cfg_eq
  obtain ⟨u, hpayload, hu⟩ := run_payload (s := payloadState kind len n t) (m := n.toNat) ⟨ht.alone halone, rfl⟩
    (ht.low hlow) rfl (show 10 + n.toNat ≤ t.cfg.rxCap + 1 by rw [hcfg]; omega)
    (show t.env.canGive n.toNat by rw [ht.env_eq]; exact Env.canGive_right hgive)
  obtain ⟨_, _, hundelivered, _⟩ := hu.low (ht.low hlow)
  have hauto : u.env.sink = .auto := by rw [readFrame_env ht hu]; exact hsink
  have hgood : u.guardByte .rx = u.cfg.sentinel := readFrame_guard ht hu hfit hguard
  have hselected : u.cs = true := readFrame_cs ht hu
  have hlen : u.rxLen = len := congrArg State.rxLen hu.frame
  have hend := run_deliver (s := goI .rd7 u) ⟨hu.alone (ht.alone halone), rfl⟩ hgood hselected hundelivered hauto hlen
  have hframe := delivered_eq ht hu
  obtain ⟨_, _, _, _, hclosed⟩ := hlow
  refine ⟨deliveredState len u, ?_, delivered_trace ht hu, (readFrame_bytes ht hu :),
    fun j hj => (readFrame_bufByte_outside ht hu hj :), (readFrame_sameTx ht hu :), ?_⟩
  · rw [show 19 + max n.toNat 1 = 4 + (10 + 2) + (max n.toNat 1 + 3) by omega, runSteps_add hbegin,
      runSteps_add hpayload]
    exact hend
  · rw [hframe]
    simp only [hst, hcs, hi, hclosed]

end Sys2Proof.Machine
end

section
/-! Settles the family of 60_exceptions.md: the guard comparison (O30), and what a halted block keeps (O32). -/

namespace Sys2Proof.Machine

/-! ## The guard comparison (60_exceptions.md R222) -/

/-- The bytes after code 9 name a buffer and a site (30_encoding.md R113). -/
theorem decodeUop_checkGuard {bs rest : List Byte} {i : Instr} (h : decodeUop 9 bs = .ok (i, rest)) :
    ∃ sp site, i = .checkGuard sp site := by
  obtain ⟨_, _, h⟩ := bind_eq_ok.mp h
  obtain ⟨_, _, h⟩ := bind_eq_ok.mp h
  obtain ⟨sp, _, h⟩ := bind_eq_ok.mp h
  obtain ⟨site, _, h⟩ := bind_eq_ok.mp h
  cases h
  exact ⟨sp, site, rfl⟩

/-- Settles O30: the byte at the index of the capacity is the guard, and the comparison passes or fails. -/
theorem checkGuardCompares : Obligations.CheckGuardCompares := fun s _ site =>
  ⟨fun _ _ _ => decodeUop_checkGuard, cap_tx s, cap_rx s,
    fun hmatch => congrArg Host.Outcome.next (checkGuard_pass site hmatch),
    fun hdiff => congrArg Host.Outcome.next (checkGuard_fail site hdiff)⟩

/-! ## What a halted block keeps (R221) -/

/-- From s to t only the environment and what the request line moves have changed. -/
def Frozen (s t : State) : Prop := onlyLine { s with env := t.env } t

theorem Frozen.of_onlyLine {s t : State} (h : onlyLine s t) : Frozen s t := by
  have henv : t.env = s.env := by rw [h]
  unfold Frozen
  rw [henv]
  exact h

/-- What the environment held before does not matter, such as the line of the script just taken. -/
theorem Frozen.of_env {s t : State} {e : Env} (h : Frozen { s with env := e } t) : Frozen s t := h

theorem Frozen.sameBytes {s t : State} (h : Frozen s t) (sp : Space) : sameBytes sp s t := by
  intro j
  rw [h]
  cases sp <;> rfl

/-- A command finds a halted block not ready and is put on the port. -/
theorem hostCommand_frozen {s : State} (hh : s.halted = true) (cmd : BitVec 2) (len : Half) (effect : State → State) :
    Frozen s (hostCommand cmd len effect s) := by
  rw [hostCommand_held (cmdReady_halted hh)]
  rfl

theorem hostStore_frozen {s : State} (hh : s.halted = true) (sp : Space) (i : Nat) (bs : List Byte) :
    Ensures (· = s) (hostStore sp i bs s) := by
  rcases hostStore_cases sp i bs s with ⟨_, hs⟩ | ⟨_, hs⟩ <;> rw [hs]
  · exact if_pos hh
  · trivial

/-- The commands and the pseudo-actions, carried out on a halted block. -/
theorem exec_environmental_frozen {s : State} (hh : s.halted = true) {i : Instr} (hi : environmental i = true) :
    Ensures (Frozen s) (exec i s) := by
  cases i with
  | nocmd => exact rfl
  | init => exact hostCommand_frozen hh _ _ _
  | submitWrite len => exact hostCommand_frozen hh _ _ _
  | cmdReserved => exact hostCommand_frozen hh _ _ _
  | edge => exact .of_onlyLine (edge_onlyLine s)
  | frameIn bytes => exact Frozen.of_env (.of_onlyLine (edge_onlyLine (addReplies bytes s)))
  | write len payload =>
    refine (hostStore_frozen hh .tx 5 payload).andThen fun u hu => ?_
    rw [hu]
    exact hostCommand_frozen hh _ _ _
  | _ => cases hi

/-- An issued operation is the environment's own, or faults. -/
theorem issueOp_frozen {s : State} (hh : s.halted = true) (i : Instr) : Ensures (Frozen s) (issueOp i s) := by
  cases hi : environmental i with
  | true => rw [issueOp_environmental hi]; exact exec_environmental_frozen hh hi
  | false => rw [issueOp_uop hi, issueUop_halted i hh]; trivial

theorem applyAction_frozen {s : State} (hh : s.halted = true) {a : Action} (ha : a ≠ .reset) :
    Ensures (Frozen s) (applyAction a s) := by
  cases a with
  | reset => exact absurd rfl ha
  | host sp i bs => exact (hostStore_frozen hh sp i bs).imp fun u hu => by rw [hu]; rfl
  | line v => exact .of_onlyLine (lineTo_onlyLine v s)
  | clk pin => exact .of_onlyLine rfl
  | timerAck => show Frozen s (if s.dReq then _ else s); split <;> rfl
  | ack => show Frozen s (if s.sValid then _ else s); split <;> rfl
  | present _ _ | reply _ | engine _ | timer _ | sink _ | issue _ | pass => exact rfl

/-- A halted block has no move of its own, and what the environment does leaves it frozen. -/
theorem step_frozen {s : State} (hh : s.halted = true) (hr : s.resets = false) : Ensures (Frozen s) (step s) := by
  have hdrop : (dropItem s).halted = true := (dropItem_halted s).trans hh
  refine step_ensures_of_noReset hr ?_ (fun _ _ _ => ?_)
    (fun _ _ _ _ i _ _ _ => (issueOp_frozen hdrop i).imp fun _ => Frozen.of_env)
    (fun _ ha => (applyAction_frozen hdrop ha).imp fun _ => Frozen.of_env)
  · rw [seqStep_halted hh]; trivial
  · rw [seqStep_halted hdrop]; trivial

/-- Settles O32: every next state is frozen, and a frozen state has the same bytes. -/
theorem haltFreezes : Obligations.HaltFreezes := by
  intro s t hh hstep hr
  have hfrozen : Frozen s t := (step_frozen hh hr).of_next hstep
  exact ⟨hfrozen, hfrozen.sameBytes .tx, hfrozen.sameBytes .rx⟩

end Sys2Proof.Machine
end

section
/-! Settles the family of 70_reset_and_hazards.md: the rest state, and the end of a run told from a halt and from an
endless wait (O59). -/

namespace Sys2Proof.Machine

variable {s : State}

/-! ## What stands at rest (70_reset_and_hazards.md R260) -/

theorem quiet_iff {st : TransportState} : quiet st = true ↔ st = .powerUp ∨ st = .initialized ∨ st = .idle := by
  cases st <;> simp [quiet]

/-- With W and I at rest no request stands, `state` is quiet and chip-select follows it to 0. -/
theorem Control.rest (h : Control s) (hw : s.wpc = .rest) (hi : s.ipc = .rest) :
    requestsLow s ∧ s.cs = false ∧ quiet s.state = true := by
  have hat : CallerAt .rest s := h.caller hi hw
  exact ⟨requestsLow_of_site h.requests (by rw [hi, hw]; rfl), hat.cs.trans (csAt_quiet hat.phase), hat.phase⟩

/-- With no command on the port there is nothing to withdraw. -/
theorem withdraw_none (hv : s.env.cmdValid = false) : withdraw s = s := by simp [withdraw, ← hv]

/-- A block at rest with no command on its port does not move. -/
theorem step_rest (hs : runsAlone s) (hr : s.cmdReady = true) (hv : s.env.cmdValid = false) : step s = .next s := by
  rw [step_ready hs hr, portCommand_none hv]
  exact congrArg Host.Outcome.next (withdraw_none hv)

/-! ## The answers of `runStatus` (R260, R261) -/

theorem exhausted_iff : s.exhausted = true ↔ s.env.script = [] ∧ s.env.cmdValid = false ∧ s.uop = none := by
  simp [State.exhausted, and_assoc]

theorem runStatus_halted_iff : s.runStatus = .halted ↔ s.halted = true := by
  rcases runStatus_cases s with ⟨hs, hh⟩ | ⟨hs, hh, _⟩ | ⟨hs, hh, _⟩ | ⟨hs, hh⟩ <;> simp [hs, hh]

theorem runStatus_ended_iff : s.runStatus = .ended ↔ s.atRest = true ∧ s.exhausted = true := by
  constructor
  · intro h
    have hend : s.halted = false ∧ s.atRest = true ∧ s.exhausted = true := by simpa [h] using runStatus_cases s
    exact hend.2
  · rintro ⟨hrest, hdone⟩
    obtain ⟨_, _, _, hh⟩ := (cmdReady_iff s).mp hrest
    simp [State.runStatus, hh, hrest, hdone]

/-- A run that holds has no line left, and its step changes nothing. -/
theorem step_of_holding (h : s.runStatus = .holding) : step s = .next s := by
  have hcase : s.halted = false ∧ s.env.script = [] ∧ s.holds = true := by simpa [h] using runStatus_cases s
  obtain ⟨_, hscript, hholds⟩ := hcase
  exact (step_alone hscript).trans ((holds_iff s).mp hholds)

/-- Nothing is left to move a run that has ended. -/
theorem step_of_ended (h : s.runStatus = .ended) : step s = .next s := by
  obtain ⟨hrest, hdone⟩ := runStatus_ended_iff.mp h
  obtain ⟨_, _, _, hh⟩ := (cmdReady_iff s).mp hrest
  obtain ⟨hscript, hv, hbus⟩ := exhausted_iff.mp hdone
  exact step_rest ⟨hscript, hbus, hh⟩ hrest hv

/-- A block alone whose step changes nothing, with its run not ended, holds. -/
theorem runStatus_holding (hs : runsAlone s) (hend : s.runStatus ≠ .ended) (hstep : step s = .next s) :
    s.runStatus = .holding := by
  obtain ⟨hscript, _, hh⟩ := hs
  have hholds : s.holds = true := (holds_iff s).mpr ((step_alone hscript).symm.trans hstep)
  have hnotDone : ¬ (s.atRest = true ∧ s.exhausted = true) := fun h => hend (runStatus_ended_iff.mpr h)
  simp only [State.runStatus, hh, Bool.and_eq_true, if_neg hnotDone, hscript, hholds]
  rfl

/-- Settles O59: at rest by the positions of W and I, and the ends of a run by the answers of `runStatus`. -/
theorem restState : Obligations.RestState := by
  refine ⟨fun s hinv hw hi _ _ => ?_, fun s => ⟨?_, runStatus_halted_iff, fun hholds => ⟨?_, ?_⟩, ?_, ?_⟩⟩
  · obtain ⟨_, hcontrol⟩ := inv_iff.mp hinv
    obtain ⟨⟨hx, hd, hv, _, _⟩, hcs, hquiet⟩ := hcontrol.rest hw hi
    exact ⟨by simp [State.busy, hw], hcs, hx, hd, hv, quiet_iff.mp hquiet⟩
  · exact runStatus_ended_iff.trans (and_congr (cmdReady_iff s) exhausted_iff)
  · rw [hholds]; decide
  · exact runSteps_fixed (step_of_holding hholds)
  · exact fun hend => runSteps_fixed (step_of_ended hend)
  · exact runStatus_holding

end Sys2Proof.Machine
end
